-- ==== Sys2Proof/Word.lean ====
section
/-! DEFINITION. The word, byte, register-index and text types of the machine (spec/00_scope.md R4, R5). -/

namespace Sys2Proof

/-- A register, pc or expression value: `XLEN = 32` bits (R4). -/
abbrev Word := BitVec 32

/-- The unit of memory: 8 bits (R24). -/
abbrev Byte := BitVec 8

/-- A register index: 5 bits, the width of the `rd`, `rs1` and `rs2` fields (R10). -/
abbrev RegIdx := BitVec 5

/-- A handle or watchpoint id: the index of one of the `NR_WP = 32` slots (R9, R20). -/
abbrev SlotIdx := Fin 32

/-- A character string: the text of a watch expression (R20) or of a pattern template (R59). -/
abbrev Text := List Char

/-- `NR_WP`, the capacity of the watchpoint pool: "fixed (32) and never grows" (R4). -/
abbrev numSlots : Nat := 32

/-- The all-ones word, the sentinel quotient of a division by zero (R130). -/
abbrev allOnes : Word := 0xffffffff#32

/-- The most negative word, the dividend of the signed overflow case (R130). -/
abbrev mostNegative : Word := 0x80000000#32

end Sys2Proof
end

