-- ==== Sys2Proof/Config.lean ====
section
/-! DEFINITION. What is fixed for one machine (spec/00_scope.md R4), the form of a pattern table, and the free values the
spec leaves open. The parameters are a record that `State` carries unchanged, so that every statement about every state holds for every
value of them (log 6). -/

namespace Sys2Proof

/-- `SHAMT5_POLICY`: what the rejection of a shift-immediate with the mode bit set does (R4, R96). -/
inductive ShamtPolicy where
  | invalid
  | nop
  deriving DecidableEq, Repr

/-- The reasons of a fatal condition (60_exceptions.md R188). -/
inductive FatalReason where
  /-- a watch expression divided by zero (R161) -/
  | exprDivZero
  /-- a register name that is not found (R158) -/
  | unknownRegister
  /-- an allocation from an empty free list (R190) -/
  | poolExhausted
  /-- unmatched parentheses (R160) -/
  | unmatchedParen
  /-- an empty token range (R157) -/
  | emptyRange
  /-- a token range that fits no case (R157, R158) -/
  | malformed
  /-- a literal above `2^32 - 1` (R158) -/
  | literalRange
  /-- a type tag outside the seven (R56): unreachable here, the tag is a closed enumeration -/
  | badTypeTag
  /-- a template that is not 32 significant characters of `0 1 ?` (R59): at start-up only -/
  | badTemplate
  /-- an access outside the admitted address set (R38) -/
  | memFault
  deriving DecidableEq, Repr, Inhabited

/-- A `(mask, value)` pair of the pattern table (10_state.md R17). -/
structure Pattern where
  mask : Word
  value : Word
  deriving DecidableEq, Repr

/-- The action of a pattern entry, "one of the instruction rules of files `41` to `46`" (10_state.md R17): the 47 of
the opcode table and the halt action (R81, R142). -/
inductive Action where
  | lui | auipc | addi | slti | sltiu | xori | ori | andi | slli | srli | srai
  | add | sub | sll | slt | sltu | xor | srl | sra | or | and
  | jal | jalr | beq | bne | blt | bge | bltu | bgeu
  | lb | lh | lw | lbu | lhu | sb | sh | sw
  | mul | mulh | mulhsu | mulhu | div | divu | rem | remu
  | ebreak | inv | halt
  deriving DecidableEq, Repr

/-- A pattern entry, "`{mask, value, type, action}`" (10_state.md R17). -/
structure Entry where
  mask : Word
  value : Word
  tag : TypeTag
  action : Action
  deriving DecidableEq, Repr

/-- A pattern entry as it is declared, before its template is converted (10_state.md R17, R222). -/
structure TemplateEntry where
  template : Text
  tag : TypeTag
  action : Action
  deriving DecidableEq, Repr

/-- One region of the address set that `MEM` admits (20_memory.md R38): the addresses `base .. base + size - 1`. -/
structure Region where
  base : Nat
  size : Nat
  deriving DecidableEq, Repr

/-- The parameters of R4 that a model takes as arguments. -/
structure Config where
  /-- `RESET_VECTOR`, OPEN (R221). -/
  resetVector : Word
  /-- `SHAMT5_POLICY` (R96). -/
  shamt5Policy : ShamtPolicy
  /-- `EXPR_DIV_SIGNED`, OPEN (R161). -/
  exprDivSigned : Bool
  /-- `MAX_TOKENS`, OPEN; `none` is unbounded (R155). -/
  maxTokens : Option Nat
  /-- `MAX_EXPR_LEN`, OPEN; `none` is unbounded (R155). -/
  maxExprLen : Option Nat
  /-- `PATTERN_TABLE` after the conversion of R60, in order (10_state.md R17, R62). -/
  patternTable : List Entry
  /-- `HALT_PATTERNS` after the conversion of R60, in order (R81). -/
  haltPatterns : List Pattern
  /-- The address set `MEM` admits; `none` is a total byte map (R38). -/
  admitted : Option (List Region)
  deriving DecidableEq, Repr

/-- `TRAP_RET_REG = 10`, register `a0` (R4, R140). -/
def trapRetReg : RegIdx := 10#5

/-- What a byte of memory that nothing has written reads as. DESIGN CHOICE (log 4): the convention of
spec/95_test_vectors.md, "unlisted bytes are 0". -/
def Config.unlistedByte : Byte := 0#8

/-- A free word: the `n`th word the spec leaves unspecified (log 13). -/
opaque Config.freeWord : Nat → Word

/-- A free fatal reason: what `fatal_reason` holds after the `reset()` command (R26, log 13). -/
opaque Config.freeFatalReason : Nat → FatalReason

/-- A free choice: whether the left side's reason is the result of a binary operator of a watch expression whose two sides
are fatal with these reasons (R161, log 24). -/
opaque Config.leftReasonWins : FatalReason → FatalReason → Bool

end Sys2Proof
end

