-- ==== Sys2Proof/WellFormed.lean ====
section
/-! DEFINITION. When a term of `Instr` is an instruction some word stands for: a branch or jump offset is even (R52,
R54: "implicit low zero bit"), and the word of `inv` is one that no real entry matches, written from the map in prose of
30_encoding.md R64, not from the table. -/

namespace Sys2Proof

/-- The words R64 sends to `inv`, by major opcode, `funct3` and `funct7` or `inst[31:26]`. -/
def isReserved (w : Word) : Bool :=
  let funct3 := (w.extractLsb' 12 3).toNat
  match (w.extractLsb' 0 7).toNat with
  | 0b0110111 => false
  | 0b0010111 => false
  | 0b1101111 => false
  | 0b1100111 => funct3 != 0
  | 0b1100011 => [2, 3].contains funct3
  | 0b0000011 => [3, 6, 7].contains funct3
  | 0b0100011 => !([0, 1, 2].contains funct3)
  | 0b0010011 =>
    let hi := (w.extractLsb' 26 6).toNat
    match funct3 with
    | 1 => hi != 0
    | 5 => !([0, 0b010000].contains hi)
    | _ => false
  | 0b0110011 =>
    match (w.extractLsb' 25 7).toNat with
    | 0 => false
    | 0b0100000 => !([0, 5].contains funct3)
    | 0b0000001 => false
    | _ => true
  | 0b1110011 => w != 0x00100073#32
  | _ => true

/-- A branch offset has its implicit low zero bit (R54). -/
def evenOffset {n : Nat} (offset : BitVec n) : Bool := !offset.getLsbD 0

/-- The checks of this file, constructor by constructor. -/
def wellFormed : Instr → Bool
  | .lui _ _ | .auipc _ _ => true
  | .addi _ _ _ | .slti _ _ _ | .sltiu _ _ _ | .xori _ _ _ | .ori _ _ _ | .andi _ _ _ => true
  | .slli _ _ _ | .srli _ _ _ | .srai _ _ _ => true
  | .add _ _ _ | .sub _ _ _ | .sll _ _ _ | .slt _ _ _ | .sltu _ _ _ => true
  | .xor _ _ _ | .srl _ _ _ | .sra _ _ _ | .or _ _ _ | .and _ _ _ => true
  | .jal _ offset => evenOffset offset
  | .jalr _ _ _ => true
  | .beq _ _ offset | .bne _ _ offset | .blt _ _ offset => evenOffset offset
  | .bge _ _ offset | .bltu _ _ offset | .bgeu _ _ offset => evenOffset offset
  | .lb _ _ _ | .lh _ _ _ | .lw _ _ _ | .lbu _ _ _ | .lhu _ _ _ => true
  | .sb _ _ _ | .sh _ _ _ | .sw _ _ _ => true
  | .mul _ _ _ | .mulh _ _ _ | .mulhsu _ _ _ | .mulhu _ _ _ => true
  | .div _ _ _ | .divu _ _ _ | .rem _ _ _ | .remu _ _ _ => true
  | .ebreak => true
  | .inv word => isReserved word

end Sys2Proof
end

