-- ==== Sys2Proof/Decode.lean ====
section
/-! DEFINITION. The decoder and the encoder (spec/30_encoding.md): the fields of an instruction word, the template
language, the ordered pattern table and its first-match scan, the decoding of bytes, and the encoder, written from the
formats of R47. -/

namespace Sys2Proof

/-! ## Fields of an instruction word (R46) -/

/-- `inst[11:7]` (R46). -/
def rdField (w : Word) : RegIdx := w.extractLsb' 7 5

/-- `inst[19:15]` (R46). -/
def rs1Field (w : Word) : RegIdx := w.extractLsb' 15 5

/-- `inst[24:20]` (R46). -/
def rs2Field (w : Word) : RegIdx := w.extractLsb' 20 5

/-- The 12 encoded bits of a type-I immediate, `inst[31:20]` (R49). -/
def immIField (w : Word) : BitVec 12 := w.extractLsb' 20 12

/-- `imm[5:0]` of a shift-immediate, `inst[25:20]`: the mode bit and the amount (R58). -/
def imm6Field (w : Word) : BitVec 6 := w.extractLsb' 20 6

/-- The 20 encoded bits of a type-U immediate, `inst[31:12]` (R50). -/
def immUField (w : Word) : BitVec 20 := w.extractLsb' 12 20

/-- The 12 encoded bits of a type-S immediate, `inst[31:25] ++ inst[11:7]` (R51). -/
def immSField (w : Word) : BitVec 12 := w.extractLsb' 25 7 ++ w.extractLsb' 7 5

/-- The 13 encoded bits of a type-B immediate, `inst[31] ++ inst[7] ++ inst[30:25] ++ inst[11:8] ++ 0` (R54). -/
def immBField (w : Word) : BitVec 13 :=
  w.extractLsb' 31 1 ++ w.extractLsb' 7 1 ++ w.extractLsb' 25 6 ++ w.extractLsb' 8 4 ++ 0#1

/-- The 21 encoded bits of a type-J immediate, `inst[31] ++ inst[19:12] ++ inst[20] ++ inst[30:21] ++ 0` (R52). -/
def immJField (w : Word) : BitVec 21 :=
  w.extractLsb' 31 1 ++ w.extractLsb' 12 8 ++ w.extractLsb' 20 1 ++ w.extractLsb' 21 10 ++ 0#1

/-! ## The pattern-template language (R59, R60) -/

/-- The `(mask, value)` bits of one significant character: a fixed 0, a fixed 1, or a wildcard (R60). -/
def templateBit : Char → Option (Bool × Bool)
  | '0' => some (true, false)
  | '1' => some (true, true)
  | '?' => some (false, false)
  | _ => none

/-- The conversion of the significant characters, bit 31 first: `none` for a character of no meaning (R60). -/
def convertBits : Text → Option (List (Bool × Bool))
  | [] => some []
  | c :: rest =>
    match templateBit c, convertBits rest with
    | some b, some bs => some (b :: bs)
    | _, _ => none

/-- The word whose bit 31 is the first of 32 bits. -/
def wordOfBits (bits : List Bool) : Word :=
  bits.foldl (fun (acc : Word) (b : Bool) => (acc <<< 1) ||| (BitVec.ofBool b).setWidth 32) 0#32

/-- Template conversion, "a one-time static transform" (R60): spaces are ignored, and a template that has not exactly
32 significant characters of `0 1 ?` is `BadTemplate` (R59). -/
def convertTemplate (template : Text) : Except FatalReason Pattern :=
  match convertBits (template.filter (· != ' ')) with
  | some bits =>
    if bits.length = 32 then
      .ok { mask := wordOfBits (bits.map (·.1)), value := wordOfBits (bits.map (·.2)) }
    else .error .badTemplate
  | none => .error .badTemplate

/-- The conversion of one declared entry (R222). -/
def TemplateEntry.convert (t : TemplateEntry) : Except FatalReason Entry :=
  match convertTemplate t.template with
  | .ok p => .ok { mask := p.mask, value := p.value, tag := t.tag, action := t.action }
  | .error r => .error r

/-- The conversion of a list in order, up to the first element that fails: what was converted, and the failure. -/
def convertList {α β : Type} (convert : α → Except FatalReason β) : List α → List β × Option FatalReason
  | [] => ([], none)
  | a :: rest =>
    match convert a with
    | .error r => ([], some r)
    | .ok b => (b :: (convertList convert rest).1, (convertList convert rest).2)

/-! ## The actions and the words they select -/

/-- The type tag under which an action is declared in the default table (R61). -/
def Action.tag : Action → TypeTag
  | .lui | .auipc => .U
  | .jal => .J
  | .addi | .slti | .sltiu | .xori | .ori | .andi | .slli | .srli | .srai | .jalr => .I
  | .lb | .lh | .lw | .lbu | .lhu => .I
  | .sb | .sh | .sw => .S
  | .beq | .bne | .blt | .bge | .bltu | .bgeu => .B
  | .add | .sub | .sll | .slt | .sltu | .xor | .srl | .sra | .or | .and => .R
  | .mul | .mulh | .mulhsu | .mulhu | .div | .divu | .rem | .remu => .R
  | .ebreak | .inv | .halt => .N

/-- The instruction a word is when it runs this action under the action's own tag, with the fields of that tag (R47,
R49 to R55). The halt action is no instruction of the table. -/
def Action.instr (w : Word) : Action → Option Instr
  | .lui => some (.lui (rdField w) (immUField w))
  | .auipc => some (.auipc (rdField w) (immUField w))
  | .addi => some (.addi (rdField w) (rs1Field w) (immIField w))
  | .slti => some (.slti (rdField w) (rs1Field w) (immIField w))
  | .sltiu => some (.sltiu (rdField w) (rs1Field w) (immIField w))
  | .xori => some (.xori (rdField w) (rs1Field w) (immIField w))
  | .ori => some (.ori (rdField w) (rs1Field w) (immIField w))
  | .andi => some (.andi (rdField w) (rs1Field w) (immIField w))
  | .slli => some (.slli (rdField w) (rs1Field w) (imm6Field w))
  | .srli => some (.srli (rdField w) (rs1Field w) (imm6Field w))
  | .srai => some (.srai (rdField w) (rs1Field w) (imm6Field w))
  | .add => some (.add (rdField w) (rs1Field w) (rs2Field w))
  | .sub => some (.sub (rdField w) (rs1Field w) (rs2Field w))
  | .sll => some (.sll (rdField w) (rs1Field w) (rs2Field w))
  | .slt => some (.slt (rdField w) (rs1Field w) (rs2Field w))
  | .sltu => some (.sltu (rdField w) (rs1Field w) (rs2Field w))
  | .xor => some (.xor (rdField w) (rs1Field w) (rs2Field w))
  | .srl => some (.srl (rdField w) (rs1Field w) (rs2Field w))
  | .sra => some (.sra (rdField w) (rs1Field w) (rs2Field w))
  | .or => some (.or (rdField w) (rs1Field w) (rs2Field w))
  | .and => some (.and (rdField w) (rs1Field w) (rs2Field w))
  | .jal => some (.jal (rdField w) (immJField w))
  | .jalr => some (.jalr (rdField w) (rs1Field w) (immIField w))
  | .beq => some (.beq (rs1Field w) (rs2Field w) (immBField w))
  | .bne => some (.bne (rs1Field w) (rs2Field w) (immBField w))
  | .blt => some (.blt (rs1Field w) (rs2Field w) (immBField w))
  | .bge => some (.bge (rs1Field w) (rs2Field w) (immBField w))
  | .bltu => some (.bltu (rs1Field w) (rs2Field w) (immBField w))
  | .bgeu => some (.bgeu (rs1Field w) (rs2Field w) (immBField w))
  | .lb => some (.lb (rdField w) (rs1Field w) (immIField w))
  | .lh => some (.lh (rdField w) (rs1Field w) (immIField w))
  | .lw => some (.lw (rdField w) (rs1Field w) (immIField w))
  | .lbu => some (.lbu (rdField w) (rs1Field w) (immIField w))
  | .lhu => some (.lhu (rdField w) (rs1Field w) (immIField w))
  | .sb => some (.sb (rs1Field w) (rs2Field w) (immSField w))
  | .sh => some (.sh (rs1Field w) (rs2Field w) (immSField w))
  | .sw => some (.sw (rs1Field w) (rs2Field w) (immSField w))
  | .mul => some (.mul (rdField w) (rs1Field w) (rs2Field w))
  | .mulh => some (.mulh (rdField w) (rs1Field w) (rs2Field w))
  | .mulhsu => some (.mulhsu (rdField w) (rs1Field w) (rs2Field w))
  | .mulhu => some (.mulhu (rdField w) (rs1Field w) (rs2Field w))
  | .div => some (.div (rdField w) (rs1Field w) (rs2Field w))
  | .divu => some (.divu (rdField w) (rs1Field w) (rs2Field w))
  | .rem => some (.rem (rdField w) (rs1Field w) (rs2Field w))
  | .remu => some (.remu (rdField w) (rs1Field w) (rs2Field w))
  | .ebreak => some .ebreak
  | .inv => some (.inv w)
  | .halt => none

/-- What the first matching entry selects: the instruction of an entry that gives its action the action's own tag, as
every entry of the default table does; else the action, the tag of the entry and the word (R74). -/
inductive Selected where
  | instr (i : Instr)
  | action (a : Action) (tag : TypeTag) (w : Word)
  deriving DecidableEq, Repr

/-- What an entry selects from a word. -/
def Entry.select (e : Entry) (w : Word) : Selected :=
  match e.action.instr w with
  | some i => if e.tag = e.action.tag then .instr i else .action e.action e.tag w
  | none => .action e.action e.tag w

/-! ## The pattern table (R61 to R63) -/

/-- The match test of R62, `(inst & mask) == value`. -/
def Entry.matches (e : Entry) (w : Word) : Bool := (w &&& e.mask) == e.value

/-- A row of the table of R61. -/
structure Row where
  template : String
  mask : Word
  value : Word
  tag : TypeTag
  action : Action
  deriving DecidableEq, Repr

/-- The entry of a row. -/
def Row.entry (r : Row) : Entry := { mask := r.mask, value := r.value, tag := r.tag, action := r.action }

/-- The declaration of a row. -/
def Row.declaration (r : Row) : TemplateEntry :=
  { template := r.template.toList, tag := r.tag, action := r.action }

/-- Entries 1 to 11 (R61, rules R85 to R95). -/
def immediateRows : List Row :=
  [ ⟨"??????? ????? ????? ??? ????? 01101 11", 0x0000007f#32, 0x00000037#32, .U, .lui⟩,
    ⟨"??????? ????? ????? ??? ????? 00101 11", 0x0000007f#32, 0x00000017#32, .U, .auipc⟩,
    ⟨"??????? ????? ????? 000 ????? 00100 11", 0x0000707f#32, 0x00000013#32, .I, .addi⟩,
    ⟨"??????? ????? ????? 010 ????? 00100 11", 0x0000707f#32, 0x00002013#32, .I, .slti⟩,
    ⟨"??????? ????? ????? 011 ????? 00100 11", 0x0000707f#32, 0x00003013#32, .I, .sltiu⟩,
    ⟨"??????? ????? ????? 100 ????? 00100 11", 0x0000707f#32, 0x00004013#32, .I, .xori⟩,
    ⟨"??????? ????? ????? 110 ????? 00100 11", 0x0000707f#32, 0x00006013#32, .I, .ori⟩,
    ⟨"??????? ????? ????? 111 ????? 00100 11", 0x0000707f#32, 0x00007013#32, .I, .andi⟩,
    ⟨"000000? ????? ????? 001 ????? 00100 11", 0xfc00707f#32, 0x00001013#32, .I, .slli⟩,
    ⟨"000000? ????? ????? 101 ????? 00100 11", 0xfc00707f#32, 0x00005013#32, .I, .srli⟩,
    ⟨"010000? ????? ????? 101 ????? 00100 11", 0xfc00707f#32, 0x40005013#32, .I, .srai⟩ ]

/-- Entries 12 to 21 (R61, rules R100 to R109). -/
def registerRows : List Row :=
  [ ⟨"0000000 ????? ????? 000 ????? 01100 11", 0xfe00707f#32, 0x00000033#32, .R, .add⟩,
    ⟨"0100000 ????? ????? 000 ????? 01100 11", 0xfe00707f#32, 0x40000033#32, .R, .sub⟩,
    ⟨"0000000 ????? ????? 001 ????? 01100 11", 0xfe00707f#32, 0x00001033#32, .R, .sll⟩,
    ⟨"0000000 ????? ????? 010 ????? 01100 11", 0xfe00707f#32, 0x00002033#32, .R, .slt⟩,
    ⟨"0000000 ????? ????? 011 ????? 01100 11", 0xfe00707f#32, 0x00003033#32, .R, .sltu⟩,
    ⟨"0000000 ????? ????? 100 ????? 01100 11", 0xfe00707f#32, 0x00004033#32, .R, .xor⟩,
    ⟨"0000000 ????? ????? 101 ????? 01100 11", 0xfe00707f#32, 0x00005033#32, .R, .srl⟩,
    ⟨"0100000 ????? ????? 101 ????? 01100 11", 0xfe00707f#32, 0x40005033#32, .R, .sra⟩,
    ⟨"0000000 ????? ????? 110 ????? 01100 11", 0xfe00707f#32, 0x00006033#32, .R, .or⟩,
    ⟨"0000000 ????? ????? 111 ????? 01100 11", 0xfe00707f#32, 0x00007033#32, .R, .and⟩ ]

/-- Entries 22 to 29 (R61, rules R110 to R117). -/
def controlRows : List Row :=
  [ ⟨"??????? ????? ????? ??? ????? 11011 11", 0x0000007f#32, 0x0000006f#32, .J, .jal⟩,
    ⟨"??????? ????? ????? 000 ????? 11001 11", 0x0000707f#32, 0x00000067#32, .I, .jalr⟩,
    ⟨"??????? ????? ????? 000 ????? 11000 11", 0x0000707f#32, 0x00000063#32, .B, .beq⟩,
    ⟨"??????? ????? ????? 001 ????? 11000 11", 0x0000707f#32, 0x00001063#32, .B, .bne⟩,
    ⟨"??????? ????? ????? 100 ????? 11000 11", 0x0000707f#32, 0x00004063#32, .B, .blt⟩,
    ⟨"??????? ????? ????? 101 ????? 11000 11", 0x0000707f#32, 0x00005063#32, .B, .bge⟩,
    ⟨"??????? ????? ????? 110 ????? 11000 11", 0x0000707f#32, 0x00006063#32, .B, .bltu⟩,
    ⟨"??????? ????? ????? 111 ????? 11000 11", 0x0000707f#32, 0x00007063#32, .B, .bgeu⟩ ]

/-- Entries 30 to 37 (R61, rules R121 to R128). -/
def memoryRows : List Row :=
  [ ⟨"??????? ????? ????? 000 ????? 00000 11", 0x0000707f#32, 0x00000003#32, .I, .lb⟩,
    ⟨"??????? ????? ????? 001 ????? 00000 11", 0x0000707f#32, 0x00001003#32, .I, .lh⟩,
    ⟨"??????? ????? ????? 010 ????? 00000 11", 0x0000707f#32, 0x00002003#32, .I, .lw⟩,
    ⟨"??????? ????? ????? 100 ????? 00000 11", 0x0000707f#32, 0x00004003#32, .I, .lbu⟩,
    ⟨"??????? ????? ????? 101 ????? 00000 11", 0x0000707f#32, 0x00005003#32, .I, .lhu⟩,
    ⟨"??????? ????? ????? 000 ????? 01000 11", 0x0000707f#32, 0x00000023#32, .S, .sb⟩,
    ⟨"??????? ????? ????? 001 ????? 01000 11", 0x0000707f#32, 0x00001023#32, .S, .sh⟩,
    ⟨"??????? ????? ????? 010 ????? 01000 11", 0x0000707f#32, 0x00002023#32, .S, .sw⟩ ]

/-- Entries 38 to 45 (R61, rules R131 to R138). -/
def mulDivRows : List Row :=
  [ ⟨"0000001 ????? ????? 000 ????? 01100 11", 0xfe00707f#32, 0x02000033#32, .R, .mul⟩,
    ⟨"0000001 ????? ????? 001 ????? 01100 11", 0xfe00707f#32, 0x02001033#32, .R, .mulh⟩,
    ⟨"0000001 ????? ????? 010 ????? 01100 11", 0xfe00707f#32, 0x02002033#32, .R, .mulhsu⟩,
    ⟨"0000001 ????? ????? 011 ????? 01100 11", 0xfe00707f#32, 0x02003033#32, .R, .mulhu⟩,
    ⟨"0000001 ????? ????? 100 ????? 01100 11", 0xfe00707f#32, 0x02004033#32, .R, .div⟩,
    ⟨"0000001 ????? ????? 101 ????? 01100 11", 0xfe00707f#32, 0x02005033#32, .R, .divu⟩,
    ⟨"0000001 ????? ????? 110 ????? 01100 11", 0xfe00707f#32, 0x02006033#32, .R, .rem⟩,
    ⟨"0000001 ????? ????? 111 ????? 01100 11", 0xfe00707f#32, 0x02007033#32, .R, .remu⟩ ]

/-- Entry 46, `ebreak`, every bit fixed (R61, R140). -/
def ebreakRow : Row := ⟨"0000000 00001 00000 000 00000 11100 11", 0xffffffff#32, 0x00100073#32, .N, .ebreak⟩

/-- Entry 47, the catch-all `inv`, every bit a wildcard (R61, R63, R141). -/
def invRow : Row := ⟨"??????? ????? ????? ??? ????? ????? ??", 0x00000000#32, 0x00000000#32, .N, .inv⟩

/-- Rows 1 to 46 in the order of R61. -/
def realRows : List Row :=
  immediateRows ++ registerRows ++ controlRows ++ memoryRows ++ mulDivRows ++ [ebreakRow]

/-- Entries 1 to 46 in the order of R61. -/
def realEntries : List Entry := realRows.map Row.entry

/-- Entry 47. -/
def invEntry : Entry := invRow.entry

/-- The 47 entries of the default `PATTERN_TABLE` (R61). -/
def defaultTable : List Entry := realEntries ++ [invEntry]

/-- The 47 entries of the default `PATTERN_TABLE` as they are declared (R61). -/
def defaultDeclarations : List TemplateEntry := (realRows ++ [invRow]).map Row.declaration

/-- An entry of `HALT_PATTERNS`: type N, action `raise Halt` (R81). -/
def haltEntry (p : Pattern) : Entry := { mask := p.mask, value := p.value, tag := .N, action := .halt }

/-- An entry that matches every word (R63, R73). -/
def Entry.isCatchAll (e : Entry) : Bool := e.mask == 0#32 && e.value == 0#32

/-- A table in match order. The halt entries stand before its last entry, the catch-all (R81); a table that does not end
in a catch-all gets `inv` after its entries, the second of the two ways R63 gives (log 21). -/
def closeTable (halts : List Entry) : List Entry → List Entry
  | [] => halts ++ [invEntry]
  | [e] => if e.isCatchAll then halts ++ [e] else e :: (halts ++ [invEntry])
  | e :: d :: rest => e :: closeTable halts (d :: rest)

/-- The table the dispatcher scans: `PATTERN_TABLE` with `HALT_PATTERNS` (10_state.md R17, R73, R81). -/
def Config.table (cfg : Config) : List Entry := closeTable (cfg.haltPatterns.map haltEntry) cfg.patternTable

/-- The first entry of a table that matches (R62, R73): "overlapping patterns are disambiguated purely by order". -/
def firstMatch : List Entry → Word → Option Entry
  | [], _ => none
  | e :: rest, w => if e.matches w then some e else firstMatch rest w

/-- Match of one word against a table, and what the matched entry selects (R73, R74). The scanned table ends in a
catch-all (R63), so the `none` case is not reached. -/
def dispatchWord (table : List Entry) (w : Word) : Selected :=
  match firstMatch table w with
  | some e => e.select w
  | none => .instr (.inv w)

/-- The instruction the default table selects for a word; total on all `2^32` words (R64). -/
def decodeWord (w : Word) : Instr :=
  match dispatchWord defaultTable w with
  | .instr i => i
  | .action _ _ _ => .inv w

/-- The values R4 gives for this hardware; `RESET_VECTOR` has none there, and the value is PRESUMED: the course
framework's convention (log 2). -/
def Config.default : Config where
  resetVector := 0x80000000#32
  shamt5Policy := .invalid
  exprDivSigned := false
  maxTokens := none
  maxExprLen := none
  patternTable := defaultTable
  haltPatterns := []
  admitted := none

/-! ## Bytes (R45, 20_memory.md R33) -/

/-- Why a list of bytes decodes to no instruction. Every 32-bit word decodes (R64), so too few bytes is the only
reason. -/
inductive DecodeError where
  | truncated
  deriving DecidableEq, Repr

/-- The word of four bytes, the byte at the lowest address least significant (R33). -/
def wordOfBytes (b0 b1 b2 b3 : Byte) : Word := b3 ++ b2 ++ b1 ++ b0

/-- The four bytes of a word in address order (R33). -/
def bytesOfWord (w : Word) : List Byte :=
  [w.extractLsb' 0 8, w.extractLsb' 8 8, w.extractLsb' 16 8, w.extractLsb' 24 8]

/-- The instruction at the head of a list of bytes, and the bytes after it (R45: one length). -/
def decodeBytes : List Byte → Except DecodeError (Instr × List Byte)
  | b0 :: b1 :: b2 :: b3 :: rest => .ok (decodeWord (wordOfBytes b0 b1 b2 b3), rest)
  | _ => .error .truncated

/-- The decoder on an instruction word numbered as the opcode table numbers it: the bits above `nbits` are zero, and the
word is laid out in memory order before it is decoded. -/
def decodeTableWord (nbits w : Nat) : Option Instr :=
  match decodeBytes (bytesOfWord (BitVec.ofNat 32 (w % 2 ^ nbits))) with
  | .ok (i, _) => some i
  | .error _ => none

/-! ## The encoder (R47) -/

/-- Format R. -/
def encodeR (funct7 : BitVec 7) (funct3 : BitVec 3) (opcode : BitVec 7) (rd rs1 rs2 : RegIdx) : Word :=
  funct7 ++ rs2 ++ rs1 ++ funct3 ++ rd ++ opcode

/-- Format I. -/
def encodeI (funct3 : BitVec 3) (opcode : BitVec 7) (rd rs1 : RegIdx) (imm : BitVec 12) : Word :=
  imm ++ rs1 ++ funct3 ++ rd ++ opcode

/-- Format I, shift-immediate variant. -/
def encodeShift (hi : BitVec 6) (funct3 : BitVec 3) (opcode : BitVec 7) (rd rs1 : RegIdx) (imm6 : BitVec 6) : Word :=
  hi ++ imm6 ++ rs1 ++ funct3 ++ rd ++ opcode

/-- Format S. -/
def encodeS (funct3 : BitVec 3) (opcode : BitVec 7) (rs1 rs2 : RegIdx) (imm : BitVec 12) : Word :=
  imm.extractLsb' 5 7 ++ rs2 ++ rs1 ++ funct3 ++ imm.extractLsb' 0 5 ++ opcode

/-- Format B. -/
def encodeB (funct3 : BitVec 3) (opcode : BitVec 7) (rs1 rs2 : RegIdx) (offset : BitVec 13) : Word :=
  offset.extractLsb' 12 1 ++ offset.extractLsb' 5 6 ++ rs2 ++ rs1 ++ funct3 ++ offset.extractLsb' 1 4
    ++ offset.extractLsb' 11 1 ++ opcode

/-- Format U. -/
def encodeU (opcode : BitVec 7) (rd : RegIdx) (imm20 : BitVec 20) : Word := imm20 ++ rd ++ opcode

/-- Format J. -/
def encodeJ (opcode : BitVec 7) (rd : RegIdx) (offset : BitVec 21) : Word :=
  offset.extractLsb' 20 1 ++ offset.extractLsb' 1 10 ++ offset.extractLsb' 11 1 ++ offset.extractLsb' 12 8 ++ rd
    ++ opcode

/-- The word of an instruction, from the formats of R47 and the fixed fields of R61. -/
def encode : Instr → Word
  | .lui rd imm20 => encodeU 0b0110111#7 rd imm20
  | .auipc rd imm20 => encodeU 0b0010111#7 rd imm20
  | .addi rd rs1 imm => encodeI 0b000#3 0b0010011#7 rd rs1 imm
  | .slti rd rs1 imm => encodeI 0b010#3 0b0010011#7 rd rs1 imm
  | .sltiu rd rs1 imm => encodeI 0b011#3 0b0010011#7 rd rs1 imm
  | .xori rd rs1 imm => encodeI 0b100#3 0b0010011#7 rd rs1 imm
  | .ori rd rs1 imm => encodeI 0b110#3 0b0010011#7 rd rs1 imm
  | .andi rd rs1 imm => encodeI 0b111#3 0b0010011#7 rd rs1 imm
  | .slli rd rs1 imm6 => encodeShift 0b000000#6 0b001#3 0b0010011#7 rd rs1 imm6
  | .srli rd rs1 imm6 => encodeShift 0b000000#6 0b101#3 0b0010011#7 rd rs1 imm6
  | .srai rd rs1 imm6 => encodeShift 0b010000#6 0b101#3 0b0010011#7 rd rs1 imm6
  | .add rd rs1 rs2 => encodeR 0b0000000#7 0b000#3 0b0110011#7 rd rs1 rs2
  | .sub rd rs1 rs2 => encodeR 0b0100000#7 0b000#3 0b0110011#7 rd rs1 rs2
  | .sll rd rs1 rs2 => encodeR 0b0000000#7 0b001#3 0b0110011#7 rd rs1 rs2
  | .slt rd rs1 rs2 => encodeR 0b0000000#7 0b010#3 0b0110011#7 rd rs1 rs2
  | .sltu rd rs1 rs2 => encodeR 0b0000000#7 0b011#3 0b0110011#7 rd rs1 rs2
  | .xor rd rs1 rs2 => encodeR 0b0000000#7 0b100#3 0b0110011#7 rd rs1 rs2
  | .srl rd rs1 rs2 => encodeR 0b0000000#7 0b101#3 0b0110011#7 rd rs1 rs2
  | .sra rd rs1 rs2 => encodeR 0b0100000#7 0b101#3 0b0110011#7 rd rs1 rs2
  | .or rd rs1 rs2 => encodeR 0b0000000#7 0b110#3 0b0110011#7 rd rs1 rs2
  | .and rd rs1 rs2 => encodeR 0b0000000#7 0b111#3 0b0110011#7 rd rs1 rs2
  | .jal rd offset => encodeJ 0b1101111#7 rd offset
  | .jalr rd rs1 imm => encodeI 0b000#3 0b1100111#7 rd rs1 imm
  | .beq rs1 rs2 offset => encodeB 0b000#3 0b1100011#7 rs1 rs2 offset
  | .bne rs1 rs2 offset => encodeB 0b001#3 0b1100011#7 rs1 rs2 offset
  | .blt rs1 rs2 offset => encodeB 0b100#3 0b1100011#7 rs1 rs2 offset
  | .bge rs1 rs2 offset => encodeB 0b101#3 0b1100011#7 rs1 rs2 offset
  | .bltu rs1 rs2 offset => encodeB 0b110#3 0b1100011#7 rs1 rs2 offset
  | .bgeu rs1 rs2 offset => encodeB 0b111#3 0b1100011#7 rs1 rs2 offset
  | .lb rd rs1 imm => encodeI 0b000#3 0b0000011#7 rd rs1 imm
  | .lh rd rs1 imm => encodeI 0b001#3 0b0000011#7 rd rs1 imm
  | .lw rd rs1 imm => encodeI 0b010#3 0b0000011#7 rd rs1 imm
  | .lbu rd rs1 imm => encodeI 0b100#3 0b0000011#7 rd rs1 imm
  | .lhu rd rs1 imm => encodeI 0b101#3 0b0000011#7 rd rs1 imm
  | .sb rs1 rs2 imm => encodeS 0b000#3 0b0100011#7 rs1 rs2 imm
  | .sh rs1 rs2 imm => encodeS 0b001#3 0b0100011#7 rs1 rs2 imm
  | .sw rs1 rs2 imm => encodeS 0b010#3 0b0100011#7 rs1 rs2 imm
  | .mul rd rs1 rs2 => encodeR 0b0000001#7 0b000#3 0b0110011#7 rd rs1 rs2
  | .mulh rd rs1 rs2 => encodeR 0b0000001#7 0b001#3 0b0110011#7 rd rs1 rs2
  | .mulhsu rd rs1 rs2 => encodeR 0b0000001#7 0b010#3 0b0110011#7 rd rs1 rs2
  | .mulhu rd rs1 rs2 => encodeR 0b0000001#7 0b011#3 0b0110011#7 rd rs1 rs2
  | .div rd rs1 rs2 => encodeR 0b0000001#7 0b100#3 0b0110011#7 rd rs1 rs2
  | .divu rd rs1 rs2 => encodeR 0b0000001#7 0b101#3 0b0110011#7 rd rs1 rs2
  | .rem rd rs1 rs2 => encodeR 0b0000001#7 0b110#3 0b0110011#7 rd rs1 rs2
  | .remu rd rs1 rs2 => encodeR 0b0000001#7 0b111#3 0b0110011#7 rd rs1 rs2
  | .ebreak => 0b0000000#7 ++ 0b00001#5 ++ 0b00000#5 ++ 0b000#3 ++ 0b00000#5 ++ 0b1110011#7
  | .inv word => word

end Sys2Proof
end

