-- ==== Sys2Proof/Machine/State.lean ====
section
/-! DEFINITION. The state of the block (spec/10_state.md, INVENTORY.md '## State'), the inputs and outputs the model
adds to it, the outcome types, and the state after reset (R26, R220). -/

namespace Sys2Proof.Machine

/-- The memory behind the port as a byte map: `(address, byte)` pairs in the canonical form of `Memory.wf` (R30). -/
abbrev Memory := List Host.Cell

/-- `run_state`: why the loop last returned control (R18). -/
inductive RunState where
  /-- a `run` command is executing steps -/
  | running
  /-- idle -/
  | stopped
  /-- the debug-trap instruction executed (R185) -/
  | trappedOk
  /-- an invalid instruction executed (R184) -/
  | trappedBad
  /-- the halt action ran (R186) -/
  | halted
  /-- the quit command was given (R187) -/
  | quit
  /-- a fatal condition occurred (R188) -/
  | fatal
  deriving DecidableEq, Repr

/-- The width of a port call in bytes; the block issues 1, 2 and 4 only (R36). -/
inductive Width where
  | one
  | two
  | four
  deriving DecidableEq, Repr

/-- One call on the memory port (R30). -/
inductive PortCall where
  | read (addr : Word) (width : Width)
  | write (addr : Word) (width : Width) (value : Word)
  deriving DecidableEq, Repr

/-- A watchpoint slot without its constant id and its implied link (R20, R21). -/
structure Slot where
  expr : Text
  last : Word
  deriving DecidableEq, Repr

/-- An entry of the change list: a handle and the old value (R22). -/
structure Change where
  handle : SlotIdx
  old : Word
  deriving DecidableEq, Repr

/-- What a query reads (R181 (7)). -/
inductive Query where
  | register (i : RegIdx)
  | pc
  | runState
  | haltRet
  | trapPc
  | fatalReason
  | watchpoints
  deriving DecidableEq, Repr

/-- The commands of R181. -/
inductive Command where
  | reset
  | run (steps : Int)
  | haltReq (code : Word)
  | wpSet (text : Text)
  | wpDelete (id : Int)
  | quit
  | query (q : Query)
  deriving DecidableEq, Repr

/-- What the outside gives the block between runs: a command (R180), or a write of the collaborator to its own memory
(R223, R230 (1)). -/
inductive Input where
  | command (c : Command)
  | memoryWrite (addr : Word) (value : Byte)
  deriving DecidableEq, Repr

/-- What a transition reports to the host (log 20). -/
inductive Response where
  /-- a command with nothing to report was carried out -/
  | accepted
  /-- a command was refused with no state change (R181, R182, R186, R194) -/
  | refused
  /-- a `run` ended: the number of steps executed and the change list of its last scan (R182) -/
  | runEnded (steps : Nat) (changes : List Change)
  /-- `wp_set` took a slot (R191) -/
  | handle (h : SlotIdx)
  /-- `wp_set` reports the offset of a syntax error (R153, R191) -/
  | syntaxError (position : Nat)
  /-- `wp_set` refuses a text with too many tokens or characters (R155) -/
  | capacity
  /-- `wp_set` ended in a fatal condition (R188) -/
  | fatalCondition (r : FatalReason)
  /-- a query of a word -/
  | word (v : Word)
  /-- a query of a register whose value is unspecified now and must not be read (R19, R26) -/
  | unspecified
  /-- a query of the run state -/
  | state (r : RunState)
  /-- a query of the fatal reason -/
  | reason (r : FatalReason)
  /-- the active watchpoints, head first, each as id, expression and cached value (R181 (7)) -/
  | watchpoints (list : List (SlotIdx × Text × Word))
  deriving DecidableEq, Repr

/-- The `run` in progress: the steps it may still execute (`none` for `run(-1)`) and the counter `k` (R182). -/
structure RunProgress where
  left : Option Nat
  done : Nat
  deriving DecidableEq, Repr

/-- The four ways an action or a command ends other than normally (R6, R78). -/
inductive Raise where
  | invalidInstruction
  | debugTrap (value : Word)
  | halt (code : Word)
  | fatal (r : FatalReason)
  deriving DecidableEq, Repr

/-- The state of the block. The fields down to `activeList` are the spec's (R25); `cfg` holds the parameters of R4, which
no transition changes; the fields after it are the model's own. -/
structure State where
  /-- `x[1] .. x[31]`, `x[i]` at index `i - 1` (R10, R25) -/
  regs : Vector Word 31
  /-- the address of the next instruction to fetch (R13) -/
  pc : Word
  /-- the memory behind the port (R24, R30) -/
  mem : Memory
  /-- R18 -/
  runState : RunState
  /-- R19 -/
  haltRet : Word
  /-- R19 -/
  trapPc : Word
  /-- R19 -/
  fatalReason : FatalReason
  /-- `wp[i].expr` and `wp[i].last` (R20) -/
  slots : Vector Slot numSlots
  /-- the list rooted in `free_head`, head first (R21) -/
  freeList : List SlotIdx
  /-- the list rooted in `active_head`, head first (R21) -/
  activeList : List SlotIdx
  /-- the parameters of R4 (log 6) -/
  cfg : Config
  /-- the inputs not yet taken, oldest first (R180, log 7) -/
  inputs : List Input
  /-- the `run` in progress (R182, log 8) -/
  progress : RunProgress
  /-- what the latest transition reported (log 20) -/
  response : Option Response
  /-- the port calls of the latest transition, oldest first (R43, log 17) -/
  port : List PortCall
  /-- whether a trap has written `trap_pc` since reset (R26, log 14) -/
  trapPcSet : Bool
  /-- the number of free values taken so far (log 13) -/
  fresh : Nat
  deriving DecidableEq, Repr

/-- Faults: none. Every stop the spec describes is a run state of the block (R183 to R189), reached by a next state, so
no meaning and no step raises a fault. Safe: nothing is lost by the absence, since an outcome that is never answered
proves nothing. -/
inductive Fault where
  deriving DecidableEq, Repr

/-- Refusals. -/
inductive Refusal where
  /-- An instruction without a meaning, named as the opcode table names it: raised by a refused arm of `exec`, of which
  there is none. Safe: the machine stops where the hardware goes on. -/
  | notModelled (mnemonic : String)
  deriving DecidableEq, Repr

/-- The values that reset leaves unspecified (R26). -/
structure Unspecified where
  /-- `x[1] .. x[31]` -/
  regs : Vector Word 31
  haltRet : Word
  trapPc : Word
  fatalReason : FatalReason
  /-- `wp[i].last` of the free slots -/
  last : Vector Word numSlots
  deriving DecidableEq, Repr

/-- The table of R26: every state element at its reset value, over the parameters, the values R26 leaves unspecified,
the memory the collaborator holds, and the model's own inputs and counter. -/
def State.resetWith (cfg : Config) (u : Unspecified) (mem : Memory) (inputs : List Input) (fresh : Nat) : State where
  regs := u.regs
  pc := cfg.resetVector
  mem := mem
  runState := .stopped
  haltRet := u.haltRet
  trapPc := u.trapPc
  fatalReason := u.fatalReason
  slots := Vector.ofFn fun i => { expr := [], last := u.last[i] }
  freeList := List.finRange numSlots
  activeList := []
  cfg := cfg
  inputs := inputs
  progress := { left := some 0, done := 0 }
  response := none
  port := []
  trapPcSet := false
  fresh := fresh

/-- The values `State.reset` holds where R26 gives none. DESIGN CHOICE (log 1, log 3). -/
def Unspecified.zero : Unspecified where
  regs := Vector.replicate 31 0#32
  haltRet := 0#32
  trapPc := 0#32
  fatalReason := .exprDivZero
  last := Vector.replicate numSlots 0#32

/-- The machine right after reset, which is also its power-on state (R220), with the default parameters (R4) and memory
with nothing listed (log 4). -/
def State.reset : State := State.resetWith Config.default Unspecified.zero [] [] 0

end Sys2Proof.Machine
end

