-- ==== Sys2Proof/Machine/Ops.lean ====
section
/-! DEFINITION. The named operations over registers, memory, the port and the control state: every access goes through
one of them, and taking a trap is the one operation `takeRaise` (spec/20_memory.md, spec/60_exceptions.md R183 to R188). -/

namespace Sys2Proof.Machine

/-! ## Registers and pc -/

theorem regSlot_lt (i : RegIdx) : i.toNat - 1 < 31 := by
  have := i.isLt
  omega

/-- `x[i]`: "register index 0 always reads as the value zero" (R6, R12). -/
def State.readReg (s : State) (i : RegIdx) : Word :=
  if i = 0#5 then 0#32 else s.regs[i.toNat - 1]'(regSlot_lt i)

/-- `x[i] <- v`: a write to register 0 is discarded (R6, R12, R76; log 19). -/
def State.writeReg (s : State) (i : RegIdx) (v : Word) : State :=
  if i = 0#5 then s else { s with regs := s.regs.set (i.toNat - 1) v (regSlot_lt i) }

/-- `s.snpc`: the address right after the instruction at `pc`, modulo `2^32` (R13, R72). -/
def State.snpc (s : State) : Word := s.pc + 4#32

/-- `pc <- s.dnpc`, the last act of a step (R77). -/
def State.setPc (s : State) (dnpc : Word) : State := { s with pc := dnpc }

/-! ## Memory as a byte map -/

/-- The byte at an address; an unlisted one reads as `Config.unlistedByte`. -/
def Memory.get : Memory → Nat → Byte
  | [], _ => Config.unlistedByte
  | (a, b) :: rest, k => if a = k then b else Memory.get rest k

/-- The map with one byte changed, in canonical form: listing an unlisted byte's value removes the entry. -/
def Memory.put : Memory → Nat → Byte → Memory
  | [], k, b => if b = Config.unlistedByte then [] else [(k, b)]
  | (a, c) :: rest, k, b =>
    if a < k then (a, c) :: Memory.put rest k b
    else if a = k then (if b = Config.unlistedByte then rest else (k, b) :: rest)
    else if b = Config.unlistedByte then (a, c) :: rest
    else (k, b) :: (a, c) :: rest

/-- The canonical form: addresses strictly rising and below `2^32`, no entry equal to what an unlisted address reads
as. -/
abbrev Memory.wf (m : Memory) : Prop :=
  m.Pairwise (fun c d => c.1 < d.1) ∧ ∀ c ∈ m, c.1 < 2 ^ 32 ∧ c.2 ≠ Config.unlistedByte

/-- The byte at a 32-bit address. -/
def Memory.byte (m : Memory) (addr : Word) : Byte := Memory.get m addr.toNat

/-- The map with the byte at a 32-bit address changed. -/
def Memory.setByte (m : Memory) (addr : Word) (b : Byte) : Memory := Memory.put m addr.toNat b

/-- The addresses an access touches: consecutive, each taken modulo `2^32` (R31, R34). -/
def Width.addrs : Width → Word → List Word
  | .one, a => [a]
  | .two, a => [a, a + 1#32]
  | .four, a => [a, a + 1#32, a + 2#32, a + 3#32]

/-- The value of `MemRead(addr, n)` on a byte map, little-endian, as an unsigned number (R31, R33). -/
def Memory.read (m : Memory) (a : Word) : Width → Word
  | .one => (Memory.byte m a).setWidth 32
  | .two => (Memory.byte m (a + 1#32) ++ Memory.byte m a).setWidth 32
  | .four =>
    Memory.byte m (a + 3#32) ++ Memory.byte m (a + 2#32) ++ Memory.byte m (a + 1#32) ++ Memory.byte m a

/-- `MemWrite(addr, n, v)` on a byte map: the low `8n` bits of `v`, low byte first (R32). -/
def Memory.write (m : Memory) (a : Word) (v : Word) : Width → Memory
  | .one => Memory.setByte m a (v.extractLsb' 0 8)
  | .two =>
    Memory.setByte (Memory.setByte m a (v.extractLsb' 0 8)) (a + 1#32) (v.extractLsb' 8 8)
  | .four =>
    Memory.setByte
      (Memory.setByte
        (Memory.setByte (Memory.setByte m a (v.extractLsb' 0 8)) (a + 1#32) (v.extractLsb' 8 8))
        (a + 2#32) (v.extractLsb' 16 8))
      (a + 3#32) (v.extractLsb' 24 8)

/-! ## The memory port (R30) -/

/-- Whether `MEM` admits an address (R38): always, for a total byte map. -/
def admits (cfg : Config) (a : Word) : Bool :=
  match cfg.admitted with
  | none => true
  | some regions => regions.any fun r => decide (r.base ≤ a.toNat) && decide (a.toNat < r.base + r.size)

/-- Whether `MEM` admits every byte of an access (R38). -/
def State.admitsAccess (s : State) (a : Word) (w : Width) : Bool := (w.addrs a).all (admits s.cfg)

/-- The answer of the port's `read`; `none` is the memory fault of R38, which returns no value. -/
def State.memRead (s : State) (a : Word) (w : Width) : Option Word :=
  if s.admitsAccess a w then some (Memory.read s.mem a w) else none

/-- The effect of the port's `write`; `none` is the memory fault of R38, with no byte written (log 11). -/
def State.memWrite (s : State) (a : Word) (w : Width) (v : Word) : Option State :=
  if s.admitsAccess a w then some { s with mem := Memory.write s.mem a v w } else none

/-- A port call is made (R43). -/
def State.logCall (s : State) (c : PortCall) : State := { s with port := s.port ++ [c] }

/-- Port calls are made, in order (R43). -/
def State.logCalls (s : State) (cs : List PortCall) : State := { s with port := s.port ++ cs }

/-- The fetch of R72: `MemRead(pc, 4)`, whatever the low bits of `pc` (R35). -/
def State.fetchWord (s : State) : Option Word := s.memRead s.pc .four

/-! ## Control state -/

/-- The run state changes (R18). -/
def State.setRunState (s : State) (r : RunState) : State := { s with runState := r }

/-- A report to the host (log 20). -/
def State.respond (s : State) (r : Response) : State := { s with response := some r }

/-- `raise Fatal(reason)`: the sticky state and its reason; what was written stays as written (R188), `halt_ret` too,
though it has no meaning there (log 16). -/
def State.enterFatal (s : State) (r : FatalReason) : State :=
  { s with runState := .fatal, fatalReason := r }

/-- TAKING A TRAP, the one shared operation: what a step does after its action raised (R77, R78, R183 to R188). The trap
record is filled, the run state set, and `pc` moves to `s.dnpc = s.snpc`; nothing is undone. `halt_ret` is unspecified in
TRAPPED_BAD: a free value (R184, log 13). A `Fatal` raised by an action advances `pc` too (R78, log 9). No operation
returns from a trap: "A trap state is left only by `reset()`" (R201). -/
def takeRaise (s : State) : Raise → State
  | .invalidInstruction =>
    { s with
      runState := .trappedBad
      trapPc := s.pc
      trapPcSet := true
      haltRet := Config.freeWord s.fresh
      fresh := s.fresh + 1
      pc := s.snpc }
  | .debugTrap value =>
    { s with runState := .trappedOk, haltRet := value, trapPc := s.pc, trapPcSet := true, pc := s.snpc }
  | .halt code =>
    { s with runState := .halted, haltRet := code, trapPc := s.pc, trapPcSet := true, pc := s.snpc }
  | .fatal r => (s.enterFatal r).setPc s.snpc

/-- The number of free values the `reset()` command takes: 31 registers, `halt_ret`, `trap_pc`, 32 cached values. -/
def resetFreeCount : Nat := 65

/-- Free values for everything R26 leaves unspecified, from the counter on (log 13). -/
def freeUnspecified (fresh : Nat) : Unspecified where
  regs := Vector.ofFn fun i => Config.freeWord (fresh + i.val)
  haltRet := Config.freeWord (fresh + 31)
  trapPc := Config.freeWord (fresh + 32)
  fatalReason := Config.freeFatalReason fresh
  last := Vector.ofFn fun i => Config.freeWord (fresh + 33 + i.val)

/-- `reset()`: "every state element takes its reset value" (R181 (1), R220); memory and the parameters stay. -/
def resetCommand (s : State) : State :=
  State.resetWith s.cfg (freeUnspecified s.fresh) s.mem s.inputs (s.fresh + resetFreeCount)

/-! ## The watchpoint pool (R190, R194) -/

/-- Slot `h` takes an expression and a cached value. -/
def State.setSlot (s : State) (h : SlotIdx) (slot : Slot) : State :=
  { s with slots := s.slots.set h.val slot h.isLt }

/-- `wp[h]` (R20). -/
def State.slot (s : State) (h : SlotIdx) : Slot := s.slots[h.val]'h.isLt

/-- `allocate()`: the head of the free list moves to the head of the active list; `none` when the free list is empty
(R190). -/
def allocate (s : State) : Option (SlotIdx × State) :=
  match s.freeList with
  | [] => none
  | h :: rest => some (h, { s with freeList := rest, activeList := h :: s.activeList })

/-- `release(h)`, `h` in the active list: it is unlinked, its expression cleared, its cached value left unspecified, and
it becomes the head of the free list (R194, log 13). -/
def release (s : State) (h : SlotIdx) : State :=
  { s.setSlot h { expr := [], last := Config.freeWord s.fresh } with
    activeList := s.activeList.erase h
    freeList := h :: s.freeList
    fresh := s.fresh + 1 }

/-- `free_head`; `none` is `NIL` (R21). -/
def State.freeHead (s : State) : Option SlotIdx := s.freeList.head?

/-- `active_head`; `none` is `NIL` (R21). -/
def State.activeHead (s : State) : Option SlotIdx := s.activeList.head?

/-- The link out of `h` in a list of slots. -/
def linkIn (h : SlotIdx) : List SlotIdx → Option SlotIdx
  | [] => none
  | a :: rest => if a = h then rest.head? else linkIn h rest

/-- `wp[h].next`, implied by the list that owns `h` (R20, R21, log 18). -/
def State.next (s : State) (h : SlotIdx) : Option SlotIdx :=
  if h ∈ s.activeList then linkIn h s.activeList else linkIn h s.freeList

end Sys2Proof.Machine
end

