-- ==== Sys2Proof/Machine/Flags.lean ====
section
/-! DEFINITION. The machine has no flags and no condition codes (spec/10_state.md R14): "Comparisons write 0 or 1 to a
general register or decide a branch directly". This file holds the comparisons, the shifts and the multiply and divide
arithmetic (R97, R102 to R107, R130). -/

namespace Sys2Proof.Machine

/-! ## Comparisons -/

/-- `signed(a) < signed(b)` (R5). -/
def ltSigned (a b : Word) : Bool := decide (a.toInt < b.toInt)

/-- `unsigned(a) < unsigned(b)` (R5). -/
def ltUnsigned (a b : Word) : Bool := decide (a.toNat < b.toNat)

/-- "Comparisons ... write exactly 0 or 1" (R97). -/
def boolWord (b : Bool) : Word := if b then 1#32 else 0#32

/-! ## Shifts, by an amount of five bits -/

/-- Zeros enter at bit 0 (R91, R102). -/
def shiftLeft (a : Word) (amount : BitVec 5) : Word := a <<< amount.toNat

/-- Zeros enter at bit 31 (R92, R106). -/
def shiftRightLogical (a : Word) (amount : BitVec 5) : Word := a >>> amount.toNat

/-- Copies of bit 31 enter at bit 31 (R93, R107). -/
def shiftRightArith (a : Word) (amount : BitVec 5) : Word := a.sshiftRight amount.toNat

/-- The amount of a register shift, `src2[4:0]` (R102). -/
def shiftAmount (b : Word) : BitVec 5 := b.extractLsb' 0 5

/-! ## Multiply: bits of the full 64-bit product (R130) -/

/-- `(src1 * src2)[31:0]` (R131). -/
def mulLow (a b : Word) : Word := (BitVec.ofNat 64 (a.toNat * b.toNat)).extractLsb' 0 32

/-- `(signed(src1) * signed(src2))[63:32]` (R132). -/
def mulHighSigned (a b : Word) : Word := (BitVec.ofInt 64 (a.toInt * b.toInt)).extractLsb' 32 32

/-- `(signed(src1) * unsigned(src2))[63:32]` (R133). -/
def mulHighSignedUnsigned (a b : Word) : Word := (BitVec.ofInt 64 (a.toInt * (b.toNat : Int))).extractLsb' 32 32

/-- `(unsigned(src1) * unsigned(src2))[63:32]` (R134). -/
def mulHighUnsigned (a b : Word) : Word := (BitVec.ofNat 64 (a.toNat * b.toNat)).extractLsb' 32 32

/-! ## Divide: no case raises (R130) -/

/-- The signed quotient, truncated toward zero (R135). -/
def divSigned (a b : Word) : Word :=
  if b = 0#32 then allOnes
  else if a = mostNegative ∧ b = allOnes then mostNegative
  else BitVec.ofInt 32 (Int.tdiv a.toInt b.toInt)

/-- The unsigned quotient (R136). -/
def divUnsigned (a b : Word) : Word :=
  if b = 0#32 then allOnes else BitVec.ofNat 32 (a.toNat / b.toNat)

/-- The signed remainder, with the sign of the dividend (R137). -/
def remSigned (a b : Word) : Word :=
  if b = 0#32 then a
  else if a = mostNegative ∧ b = allOnes then 0#32
  else BitVec.ofInt 32 (a.toInt - b.toInt * Int.tdiv a.toInt b.toInt)

/-- The unsigned remainder (R138). -/
def remUnsigned (a b : Word) : Word :=
  if b = 0#32 then a else BitVec.ofNat 32 (a.toNat % b.toNat)

end Sys2Proof.Machine
end

