-- ==== Sys2Proof/Machine/Expr.lean ====
section
/-! DEFINITION. The value unit of the watchpoint comparator: the tokenizer, the unary retag pass and the evaluator of
watch expressions (spec/49_watch_expression.md), over the registers, `pc` and the memory port. -/

namespace Sys2Proof.Machine

/-! ## Tokens (R152) -/

/-- The token types; `neg` and `deref` are produced by the retag pass only. -/
inductive TokenType where
  | dec
  | hex
  | reg
  | plus
  | minus
  | star
  | slash
  | eq
  | neq
  | and
  | lparen
  | rparen
  | neg
  | deref
  deriving DecidableEq, Repr

/-- "`{type, text}`", `text` the matched substring. -/
structure Token where
  type : TokenType
  text : Text
  deriving DecidableEq, Repr

/-! ## The tokenizer (R153, R154) -/

/-- Space and tab (R154 (1)). -/
def isBlank (c : Char) : Bool := c == ' ' || c == '\t'

/-- `0-9` (R154 (7)). -/
def isDecDigit (c : Char) : Bool := decide ('0'.toNat ≤ c.toNat) && decide (c.toNat ≤ '9'.toNat)

/-- The value of a digit in base 16, letters in either case (R154 (6), R158). -/
def hexDigitValue (c : Char) : Option Nat :=
  if isDecDigit c then some (c.toNat - '0'.toNat)
  else if 'a'.toNat ≤ c.toNat ∧ c.toNat ≤ 'f'.toNat then some (c.toNat - 'a'.toNat + 10)
  else if 'A'.toNat ≤ c.toNat ∧ c.toNat ≤ 'F'.toNat then some (c.toNat - 'A'.toNat + 10)
  else none

/-- `0-9 a-f A-F` (R154 (6)). -/
def isHexDigit (c : Char) : Bool := (hexDigitValue c).isSome

/-- `A-Z a-z 0-9` (R154 (5)). -/
def isAlnum (c : Char) : Bool :=
  isDecDigit c || (decide ('a'.toNat ≤ c.toNat) && decide (c.toNat ≤ 'z'.toNat))
    || (decide ('A'.toNat ≤ c.toNat) && decide (c.toNat ≤ 'Z'.toNat))

/-- The length of the longest prefix of characters of a class. -/
def spanLen (p : Char → Bool) : Text → Nat
  | [] => 0
  | c :: rest => if p c then spanLen p rest + 1 else 0

/-- The length of a fixed word at the head of a text, 0 if it is not there. -/
def wordLen (word text : Text) : Nat := if word.isPrefixOf text then word.length else 0

/-- `$` followed by one or more alphanumerics (R154 (5)). -/
def regLen : Text → Nat
  | '$' :: rest => if spanLen isAlnum rest = 0 then 0 else spanLen isAlnum rest + 1
  | _ => 0

/-- `0x` or `0X` followed by one or more hexadecimal digits (R154 (6)). -/
def hexLen : Text → Nat
  | '0' :: x :: rest =>
    if (x == 'x' || x == 'X') && spanLen isHexDigit rest != 0 then spanLen isHexDigit rest + 2 else 0
  | _ => 0

/-- A lexical rule: the length of the longest prefix it matches (0: no match), and the token it gives (`none`:
whitespace, no token). -/
structure LexRule where
  matchLen : Text → Nat
  token : Option TokenType

/-- The lexical rules in priority order (R154). -/
def lexRules : List LexRule :=
  [ ⟨spanLen isBlank, none⟩,
    ⟨wordLen ['=', '='], some .eq⟩,
    ⟨wordLen ['!', '='], some .neq⟩,
    ⟨wordLen ['&', '&'], some .and⟩,
    ⟨regLen, some .reg⟩,
    ⟨hexLen, some .hex⟩,
    ⟨spanLen isDecDigit, some .dec⟩,
    ⟨wordLen ['+'], some .plus⟩,
    ⟨wordLen ['-'], some .minus⟩,
    ⟨wordLen ['*'], some .star⟩,
    ⟨wordLen ['/'], some .slash⟩,
    ⟨wordLen ['('], some .lparen⟩,
    ⟨wordLen [')'], some .rparen⟩ ]

/-- "The first rule whose pattern matches at the current position wins" (R153): its length and its token. -/
def firstRule : List LexRule → Text → Option (Nat × Option TokenType)
  | [], _ => none
  | r :: rest, text => if r.matchLen text = 0 then firstRule rest text else some (r.matchLen text, r.token)

/-- The token, if any, of a match. -/
def emitToken (token : Option TokenType) (text : Text) : List Token :=
  match token with
  | some type => [{ type := type, text := text }]
  | none => []

/-- The tokens of the text that stands at offset `position`, or the offset where no rule matches (R153). Every match is
non-empty, so the length of the text is enough fuel. -/
def tokenizeFrom : Nat → Nat → Text → Except Nat (List Token)
  | _, _, [] => .ok []
  | 0, position, _ :: _ => .error position
  | fuel + 1, position, c :: rest =>
    match firstRule lexRules (c :: rest) with
    | none => .error position
    | some (n, token) =>
      match tokenizeFrom fuel (position + n) ((c :: rest).drop n) with
      | .error e => .error e
      | .ok tokens => .ok (emitToken token ((c :: rest).take n) ++ tokens)

/-- The tokens of a text before the retag pass, or the offset of the syntax error (R153). -/
def tokenize (text : Text) : Except Nat (List Token) := tokenizeFrom text.length 0 text

/-! ## The unary retag pass (R156) -/

/-- Whether the preceding token is "one of {numeric literal, register reference, close-parenthesis}". -/
def endsOperand : Option TokenType → Bool
  | some .dec | some .hex | some .reg | some .rparen => true
  | _ => false

/-- The type of a token after the pass, from the type before it and the preceding token's. -/
def retagType (prev : Option TokenType) (type : TokenType) : TokenType :=
  if endsOperand prev then type
  else match type with
    | .minus => .neg
    | .star => .deref
    | other => other

/-- "A deterministic, single left-to-right pass". -/
def retagFrom : Option TokenType → List Token → List Token
  | _, [] => []
  | prev, t :: rest =>
    { t with type := retagType prev t.type } :: retagFrom (some (retagType prev t.type)) rest

/-- The pass over a whole token list: the first token has no predecessor. -/
def retag (tokens : List Token) : List Token := retagFrom none tokens

/-! ## Register names (10_state.md R11) -/

/-- What a register reference names. -/
inductive RegRef where
  | pc
  | gpr (i : RegIdx)
  deriving DecidableEq, Repr

/-- The names of registers 0 to 31, without the `$` (R11). -/
def abiNames : List String :=
  ["0", "ra", "sp", "gp", "tp", "t0", "t1", "t2"] ++ ["s0", "s1", "a0", "a1", "a2", "a3", "a4", "a5"]
    ++ ["a6", "a7", "s2", "s3", "s4", "s5", "s6", "s7"] ++ ["s8", "s9", "s10", "s11", "t3", "t4", "t5", "t6"]

/-- The decimal digit of a number below 10. -/
def digitChar (n : Nat) : Char := Char.ofNat ('0'.toNat + n)

/-- The alias `x0 .. x31` of a register (R11). -/
def xName (n : Nat) : Text :=
  'x' :: (if n < 10 then [digitChar n] else [digitChar (n / 10), digitChar (n % 10)])

/-- The index of the first name of a list that is the text. -/
def indexOfName (text : Text) : List Text → Nat → Option Nat
  | [], _ => none
  | name :: rest, n => if name = text then some n else indexOfName text rest (n + 1)

/-- The register a name without its `$` stands for: `pc`, the ABI names, and the aliases `zero`, `fp`, `x0 .. x31`
(R11). -/
def resolveName (name : Text) : Option RegRef :=
  if name = "pc".toList then some .pc
  else if name = "zero".toList then some (.gpr 0#5)
  else if name = "fp".toList then some (.gpr 8#5)
  else
    match indexOfName name (abiNames.map String.toList) 0 with
    | some n => some (.gpr (BitVec.ofNat 5 n))
    | none =>
      match indexOfName name ((List.range 32).map xName) 0 with
      | some n => some (.gpr (BitVec.ofNat 5 n))
      | none => none

/-- "`resolve(name) -> (value, found)`", for a reference written with its leading `$` (R11, R158). -/
def resolve (s : State) (text : Text) : Option Word :=
  match resolveName (text.drop 1) with
  | some .pc => some s.pc
  | some (.gpr i) => some (s.readReg i)
  | none => none

/-! ## The evaluator (R157 to R163) -/

/-- The value of digits read in a base, most significant first (R158). -/
def digitsValue (base : Nat) (digits : Text) : Nat :=
  digits.foldl (fun acc c => acc * base + (hexDigitValue c).getD 0) 0

/-- A literal that fits a word; a larger one is `LiteralRange` (R158). -/
def literal (n : Nat) : Except FatalReason Word :=
  if n < 2 ^ 32 then .ok (BitVec.ofNat 32 n) else .error .literalRange

/-- Case (b): a single token (R158). -/
def singleToken (s : State) (t : Token) : Except FatalReason Word :=
  match t.type with
  | .dec => literal (digitsValue 10 t.text)
  | .hex => literal (digitsValue 16 (t.text.drop 2))
  | .reg =>
    match resolve s t.text with
    | some v => .ok v
    | none => .error .unknownRegister
  | _ => .error .malformed

/-- Whether the depth over a range, from 0, "never goes below 0 and ends at 0" (R159). -/
def balanced : List Token → Nat → Bool
  | [], depth => depth == 0
  | t :: rest, depth =>
    match t.type with
    | .lparen => balanced rest (depth + 1)
    | .rparen => if depth = 0 then false else balanced rest (depth - 1)
    | _ => balanced rest depth

/-- Case (c): the range inside one matching pair of parentheses that wraps the whole range (R159). -/
def wrapped : List Token → Option (List Token)
  | [] => none
  | first :: rest =>
    match rest.getLast? with
    | none => none
    | some last =>
      if first.type = .lparen ∧ last.type = .rparen ∧ balanced rest.dropLast 0 = true then some rest.dropLast
      else none

/-- The rightmost occurrence found so far of each precedence class: 0 logical-AND, 1 equality, 2 additive, 3
multiplicative (R160). -/
structure Found where
  andAt : Option Nat
  eqAt : Option Nat
  addAt : Option Nat
  mulAt : Option Nat
  deriving DecidableEq, Repr

/-- Nothing found. -/
def Found.empty : Found := { andAt := none, eqAt := none, addAt := none, mulAt := none }

/-- "remember the first (rightmost) occurrence of each of four precedence classes" (R160): an operator at depth 0 at
index `i`, while the scan runs from right to left. -/
def Found.record (f : Found) (type : TokenType) (i : Nat) : Found :=
  match type with
  | .and => { f with andAt := f.andAt.or (some i) }
  | .eq | .neq => { f with eqAt := f.eqAt.or (some i) }
  | .plus | .minus => { f with addAt := f.addAt.or (some i) }
  | .star | .slash => { f with mulAt := f.mulAt.or (some i) }
  | _ => f

/-- "pick the occurrence belonging to the lowest-precedence class that was found at all" (R160). -/
def Found.pick (f : Found) : Option Nat := f.andAt.or (f.eqAt.or (f.addAt.or f.mulAt))

/-- The scan "from `q` down to `p`, tracking parenthesis depth", over the indexed tokens in that order (R160). -/
def scanSplit : List (Token × Nat) → Nat → Found → Except FatalReason Found
  | [], depth, found => if depth = 0 then .ok found else .error .unmatchedParen
  | (t, i) :: rest, depth, found =>
    match t.type with
    | .rparen => scanSplit rest (depth + 1) found
    | .lparen => if depth = 0 then .error .unmatchedParen else scanSplit rest (depth - 1) found
    | type => scanSplit rest depth (if depth = 0 then found.record type i else found)

/-- The split point of a range, if it has one (R160). -/
def splitPoint (tokens : List Token) : Except FatalReason (Option Nat) :=
  match scanSplit tokens.zipIdx.reverse 0 Found.empty with
  | .ok found => .ok found.pick
  | .error e => .error e

/-- The operator at the split, applied to the two values (R161). -/
def applyBinary (signedDiv : Bool) (op : TokenType) (a b : Word) : Except FatalReason Word :=
  match op with
  | .plus => .ok (a + b)
  | .minus => .ok (a - b)
  | .star => .ok (a * b)
  | .slash =>
    if b = 0#32 then .error .exprDivZero
    else .ok (if signedDiv then divSigned a b else divUnsigned a b)
  | .eq => .ok (boolWord (a == b))
  | .neq => .ok (boolWord (a != b))
  | .and => .ok (boolWord (a != 0#32 && b != 0#32))
  | _ => .error .malformed

/-- What an evaluation gives: its memory reads in order, and its value or fatal reason. -/
abbrev Evaluation := List PortCall × Except FatalReason Word

/-- R161: the operator on the results of its two sides. "A fatal result of either side is the result of the whole"; where
both are fatal the spec does not say which one, and the result is either (log 24). -/
def binaryResult (signedDiv : Bool) (op : TokenType) :
    Except FatalReason Word → Except FatalReason Word → Except FatalReason Word
  | .ok a, .ok b => applyBinary signedDiv op a b
  | .ok _, .error r => .error r
  | .error l, .ok _ => .error l
  | .error l, .error r => .error (if Config.leftReasonWins l r then l else r)

/-- R161: both sides "are always evaluated, the left one first", so the reads of the left side stand before those of the
right side, whatever either gives (R43). -/
def evalBinary (signedDiv : Bool) (op : TokenType) (left right : Evaluation) : Evaluation :=
  (left.1 ++ right.1, binaryResult signedDiv op left.2 right.2)

/-- R162: one `MemRead(addr, 4)` after the reads of the operand; a fault of the port is `MemFault`. -/
def evalDeref (s : State) (operand : Evaluation) : Evaluation :=
  match operand with
  | (calls, .error e) => (calls, .error e)
  | (calls, .ok addr) =>
    (calls ++ [.read addr .four],
      match s.memRead addr .four with
      | some v => .ok v
      | none => .error .memFault)

/-- R163. -/
def evalNeg (operand : Evaluation) : Evaluation :=
  match operand with
  | (calls, .error e) => (calls, .error e)
  | (calls, .ok v) => (calls, .ok (0#32 - v))

/-- `eval` of a token range, as the list of its tokens (R157): the cases (a) to (g) in the order of that rule. Every
recursive call is on a shorter range, so the number of tokens is enough fuel (R166). -/
def evalRange (s : State) : Nat → List Token → Evaluation
  | _, [] => ([], .error .emptyRange)
  | _, [t] => ([], singleToken s t)
  | 0, _ => ([], .error .malformed)
  | fuel + 1, first :: second :: rest =>
    match wrapped (first :: second :: rest) with
    | some inner => evalRange s fuel inner
    | none =>
      match splitPoint (first :: second :: rest) with
      | .error e => ([], .error e)
      | .ok (some i) =>
        evalBinary s.cfg.exprDivSigned (((first :: second :: rest)[i]?.map Token.type).getD first.type)
          (evalRange s fuel ((first :: second :: rest).take i))
          (evalRange s fuel ((first :: second :: rest).drop (i + 1)))
      | .ok none =>
        match first.type with
        | .deref => evalDeref s (evalRange s fuel (second :: rest))
        | .neg => evalNeg (evalRange s fuel (second :: rest))
        | _ => ([], .error .malformed)

/-! ## The contract (R150) -/

/-- `Ok(value)`, `SyntaxError(position)`, `Fatal(reason)` (R150), or the refusal of a text with more than `MAX_TOKENS`
tokens (R155). -/
inductive ExprResult where
  | ok (v : Word)
  | syntaxError (position : Nat)
  | capacity
  | fatal (r : FatalReason)
  deriving DecidableEq, Repr

/-- Whether a count exceeds a capacity (R155). -/
def exceeds (n : Nat) : Option Nat → Bool
  | none => false
  | some cap => decide (cap < n)

/-- `expr(text, x, pc, MEM)`: tokenize, retag, evaluate the whole range (R150), with the reads made (R43). A text that
does not tokenize has no token count, so its syntax error is reported first (log 15). -/
def exprValue (s : State) (text : Text) : List PortCall × ExprResult :=
  match tokenize text with
  | .error position => ([], .syntaxError position)
  | .ok tokens =>
    if exceeds tokens.length s.cfg.maxTokens then ([], .capacity)
    else
      match evalRange s tokens.length (retag tokens) with
      | (calls, .ok v) => (calls, .ok v)
      | (calls, .error r) => (calls, .fatal r)

end Sys2Proof.Machine
end

