-- ==== Sys2Proof/Machine/Watch.lean ====
section
/-! DEFINITION. The watchpoint manager and comparator (spec/60_exceptions.md R190 to R195): setting, deleting and
scanning watchpoints. -/

namespace Sys2Proof.Machine

/-- `wp_set(text)` in a state that accepts it: the expression is evaluated before a slot is taken (R191). A text longer
than `MAX_EXPR_LEN` is refused where the slot would store it (R155, log 15). -/
def wpSet (s : State) (text : Text) : State :=
  match exprValue s text with
  | (calls, .syntaxError position) => (s.logCalls calls).respond (.syntaxError position)
  | (calls, .capacity) => (s.logCalls calls).respond .capacity
  | (calls, .fatal r) => ((s.logCalls calls).enterFatal r).respond (.fatalCondition r)
  | (calls, .ok v) =>
    if exceeds text.length s.cfg.maxExprLen then (s.logCalls calls).respond .capacity
    else
      match allocate (s.logCalls calls) with
      | none => ((s.logCalls calls).enterFatal .poolExhausted).respond (.fatalCondition .poolExhausted)
      | some (h, s') => (s'.setSlot h { expr := text, last := v }).respond (.handle h)

/-- The slot a `wp_delete` argument names, if it is "in `0 .. 31` and slot `id` is in the active list" (R194). -/
def activeSlot (s : State) (id : Int) : Option SlotIdx := s.activeList.find? fun h => (h.val : Int) == id

/-- `wp_delete(id)` in a state that accepts it: an id that is not active is reported and nothing changes (R194). -/
def wpDelete (s : State) (id : Int) : State :=
  match activeSlot s id with
  | some h => (release s h).respond .accepted
  | none => s.respond .refused

/-- The loop of the comparator over the rest of the active list (R192): the change list so far, and the state. Every
watchpoint is evaluated, unless one is fatal, which ends the scan (log 12). A result that is neither `Ok` nor `Fatal`
does not occur for a text that passed `wp_set`, and the pseudocode of R192 gives it no effect. -/
def scanFrom : List SlotIdx → List Change → State → List Change × State
  | [], changes, s => (changes, s)
  | h :: rest, changes, s =>
    match exprValue s (s.slot h).expr with
    | (calls, .fatal r) => (changes, (s.logCalls calls).enterFatal r)
    | (calls, .ok v) =>
      if v = (s.slot h).last then scanFrom rest changes (s.logCalls calls)
      else
        scanFrom rest (changes ++ [{ handle := h, old := (s.slot h).last }])
          ((s.logCalls calls).setSlot h { expr := (s.slot h).expr, last := v })
    | (calls, _) => scanFrom rest changes (s.logCalls calls)

/-- `detect_changes()`: the scan from the head of the active list; a change stops a running loop and leaves any other
run state in place (R192, R193). -/
def detectChanges (s : State) : List Change × State :=
  match scanFrom s.activeList [] s with
  | (changes, t) =>
    if changes ≠ [] ∧ t.runState = .running then (changes, t.setRunState .stopped) else (changes, t)

end Sys2Proof.Machine
end

