-- ==== Sys2Proof/Machine/Commands.lean ====
section
/-! DEFINITION. The commands of the block (spec/60_exceptions.md R181), the queries, the writes of the memory
collaborator, and start-up (spec/70_reset_and_hazards.md R222). -/

namespace Sys2Proof.Machine

/-- The states in which "the process of the original no longer exists" (R181). -/
def processGone : RunState → Bool
  | .quit | .fatal => true
  | _ => false

/-- The states that execute no step: "only `reset()` leaves them" (R189). -/
def terminal : RunState → Bool
  | .trappedOk | .trappedBad | .halted | .quit | .fatal => true
  | .running | .stopped => false

/-- `run(steps)` at its entry (R182 (a) to (c)): a count below -1 is refused; in a terminal state no step is executed;
`run(0)` leaves STOPPED at once; any other enters RUNNING. -/
def runCommand (s : State) (steps : Int) : State :=
  if processGone s.runState ∨ steps < -1 then s.respond .refused
  else if terminal s.runState then s.respond (.runEnded 0 [])
  else if steps = 0 then (s.setRunState .stopped).respond (.runEnded 0 [])
  else
    { s.setRunState .running with
      progress := { left := if steps = -1 then none else some steps.toNat, done := 0 } }

/-- `halt_req(code)`: "accepted only in `run_state = STOPPED`" (R186); `trap_pc` is not written. -/
def haltRequest (s : State) (code : Word) : State :=
  if s.runState = .stopped then ({ s with haltRet := code }.setRunState .halted).respond .accepted
  else s.respond .refused

/-- `quit()`: "from any state except `FATAL`"; after a `quit` it is refused like every other command (R187). -/
def quitCommand (s : State) : State :=
  if processGone s.runState then s.respond .refused else (s.setRunState .quit).respond .accepted

/-- The active watchpoints "in active-list order, head first, each as `(id, expr, last)`" (R181 (7)). -/
def listWatchpoints (s : State) : List (SlotIdx × Text × Word) :=
  s.activeList.map fun h => (h, (s.slot h).expr, (s.slot h).last)

/-- What a query answers (R181 (7)). A register whose value is unspecified now is not read (R19, R26, log 14). -/
def answer (s : State) : Query → Response
  | .register i => .word (s.readReg i)
  | .pc => .word s.pc
  | .runState => .state s.runState
  | .haltRet => if s.runState = .trappedOk ∨ s.runState = .halted then .word s.haltRet else .unspecified
  | .trapPc => if s.trapPcSet then .word s.trapPc else .unspecified
  | .fatalReason => if s.runState = .fatal then .reason s.fatalReason else .unspecified
  | .watchpoints => .watchpoints (listWatchpoints s)

/-- One command, to completion (R180, R181), but for `run`, whose rounds follow. -/
def applyCommand (s : State) : Command → State
  | .reset => (resetCommand s).respond .accepted
  | .run steps => runCommand s steps
  | .haltReq code => haltRequest s code
  | .wpSet text => if processGone s.runState then s.respond .refused else wpSet s text
  | .wpDelete id => if processGone s.runState then s.respond .refused else wpDelete s id
  | .quit => quitCommand s
  | .query q => s.respond (answer s q)

/-- One input between runs. The collaborator writes only what its memory admits (R223, R230 (1), log 22). -/
def applyInput (s : State) : Input → State
  | .command c => applyCommand s c
  | .memoryWrite addr value =>
    if admits s.cfg addr then { s with mem := Memory.setByte s.mem addr value } else s

/-- The state in which each template has been converted once (R222): the state after reset (R220), over a table and a
list of halt entries that hold what was converted. -/
def converted (cfg : Config) (table : List TemplateEntry) (halts : List Text) (u : Unspecified) (mem : Memory) : State :=
  State.resetWith
    { cfg with
      patternTable := (convertList TemplateEntry.convert table).1
      haltPatterns := (convertList convertTemplate halts).1 }
    u mem [] 0

/-- Start-up (R220, R222). A template that is not well formed is `Fatal(BadTemplate)` (R59): the block enters the sticky
state FATAL with that reason (R188). What else a failed start-up leaves is a DESIGN CHOICE (log 23): every other element
at its reset value, and the entries converted before the first bad template of each list. -/
def startUp (cfg : Config) (table : List TemplateEntry) (halts : List Text) (u : Unspecified) (mem : Memory) : State :=
  match (convertList TemplateEntry.convert table).2.or (convertList convertTemplate halts).2 with
  | none => converted cfg table halts u mem
  | some r => (converted cfg table halts u mem).enterFatal r

end Sys2Proof.Machine
end

