-- ==== Sys2Proof/Machine/Operands.lean ====
section
/-! DEFINITION. The operand tuple and the decoder contract (spec/10_state.md R16, spec/30_encoding.md R48 to R58): the
tuple of each type tag, from the fields of the instruction, and the pure function from a word and a tag to a tuple. -/

namespace Sys2Proof.Machine

/-- "`{rd, src1, src2, imm}`", the fields not meaningful for a type left as zero (R16). -/
structure Operands where
  rd : RegIdx
  src1 : Word
  src2 : Word
  imm : Word
  deriving DecidableEq, Repr

/-- Type I: `imm = sext_12` (R49). -/
def operandsI (rd rs1 : RegIdx) (imm : BitVec 12) (s : State) : Operands :=
  { rd := rd, src1 := s.readReg rs1, src2 := 0#32, imm := imm.signExtend 32 }

/-- Type U: the 20-bit field "placed at bit 12" (R50). -/
def operandsU (rd : RegIdx) (imm20 : BitVec 20) : Operands :=
  { rd := rd, src1 := 0#32, src2 := 0#32, imm := imm20 ++ 0#12 }

/-- Type S: `rd` is left zero (R51). -/
def operandsS (rs1 rs2 : RegIdx) (imm : BitVec 12) (s : State) : Operands :=
  { rd := 0#5, src1 := s.readReg rs1, src2 := s.readReg rs2, imm := imm.signExtend 32 }

/-- Type J: `imm = sext_21` (R52). -/
def operandsJ (rd : RegIdx) (offset : BitVec 21) : Operands :=
  { rd := rd, src1 := 0#32, src2 := 0#32, imm := offset.signExtend 32 }

/-- Type R (R53). -/
def operandsR (rd rs1 rs2 : RegIdx) (s : State) : Operands :=
  { rd := rd, src1 := s.readReg rs1, src2 := s.readReg rs2, imm := 0#32 }

/-- Type B: `imm = sext_13`; `rd` is left zero (R54). -/
def operandsB (rs1 rs2 : RegIdx) (offset : BitVec 13) (s : State) : Operands :=
  { rd := 0#5, src1 := s.readReg rs1, src2 := s.readReg rs2, imm := offset.signExtend 32 }

/-- Type N: "no operands" (R55). -/
def operandsN : Operands := { rd := 0#5, src1 := 0#32, src2 := 0#32, imm := 0#32 }

/-- The decoder contract: the tuple of a word under a type tag, "no side effects; pure function of its inputs" (R48). -/
def decodeOperands (w : Word) (s : State) : TypeTag → Operands
  | .I => operandsI (rdField w) (rs1Field w) (immIField w) s
  | .U => operandsU (rdField w) (immUField w)
  | .S => operandsS (rs1Field w) (rs2Field w) (immSField w) s
  | .J => operandsJ (rdField w) (immJField w)
  | .R => operandsR (rdField w) (rs1Field w) (rs2Field w) s
  | .B => operandsB (rs1Field w) (rs2Field w) (immBField w) s
  | .N => operandsN

/-- The shift amount of a shift-immediate, `imm[4:0]` (R58). -/
def Operands.shamt (o : Operands) : BitVec 5 := o.imm.extractLsb' 0 5

/-- The mode bit of a shift-immediate, `imm[5]` (R58). -/
def Operands.modeBit (o : Operands) : Bool := o.imm.getLsbD 5

/-- The effective address of a load or store, `(src1 + imm)[31:0]` (R120). -/
def Operands.address (o : Operands) : Word := o.src1 + o.imm

end Sys2Proof.Machine
end

