-- ==== Sys2Proof/Machine/IntegerImmediate.lean ====
section
/-! DEFINITION. The actions of table entries 1 to 11 (spec/41_integer_immediate.md): none touches memory or `s.dnpc`, so
`pc` advances by 4 (R97). -/

namespace Sys2Proof.Machine

/-- What an action answers. -/
abbrev Result := Host.Outcome State Fault Refusal

/-- `x[rd] <- v`, then `pc <- s.snpc`: the end of every action that computes a register (R76, R77). -/
def writeAndAdvance (rd : RegIdx) (v : Word) (s : State) : Result :=
  .next ((s.writeReg rd v).setPc s.snpc)

/-- The rejection of a shift-immediate with the mode bit set, under either policy (R96). -/
def rejectShift (s : State) : Result :=
  match s.cfg.shamt5Policy with
  | .invalid => .next (takeRaise s .invalidInstruction)
  | .nop => .next (s.setPc s.snpc)

/-- A shift-immediate: the action tests the mode bit "before anything else" and takes the amount from `imm[4:0]` (R58,
R96). -/
def shiftImmediate (o : Operands) (shift : Word → BitVec 5 → Word) (s : State) : Result :=
  if o.modeBit then rejectShift s else writeAndAdvance o.rd (shift o.src1 o.shamt) s

/-- R94. -/
def actLui (o : Operands) (s : State) : Result := writeAndAdvance o.rd o.imm s

/-- R94: the action of `lui` on its own operands, type U. -/
def execLui (rd : RegIdx) (imm20 : BitVec 20) (s : State) : Result := actLui (operandsU rd imm20) s

/-- R95: `s.pc` is the address of the `auipc` itself. -/
def actAuipc (o : Operands) (s : State) : Result := writeAndAdvance o.rd (s.pc + o.imm) s

/-- R95: the action of `auipc` on its own operands, type U. -/
def execAuipc (rd : RegIdx) (imm20 : BitVec 20) (s : State) : Result := actAuipc (operandsU rd imm20) s

/-- R85. -/
def actAddi (o : Operands) (s : State) : Result := writeAndAdvance o.rd (o.src1 + o.imm) s

/-- R85: the action of `addi` on its own operands, type I. -/
def execAddi (rd rs1 : RegIdx) (imm : BitVec 12) (s : State) : Result := actAddi (operandsI rd rs1 imm s) s

/-- R86. -/
def actSlti (o : Operands) (s : State) : Result := writeAndAdvance o.rd (boolWord (ltSigned o.src1 o.imm)) s

/-- R86: the action of `slti` on its own operands, type I. -/
def execSlti (rd rs1 : RegIdx) (imm : BitVec 12) (s : State) : Result := actSlti (operandsI rd rs1 imm s) s

/-- R87: the immediate is sign-extended first and then read as unsigned. -/
def actSltiu (o : Operands) (s : State) : Result := writeAndAdvance o.rd (boolWord (ltUnsigned o.src1 o.imm)) s

/-- R87: the action of `sltiu` on its own operands, type I. -/
def execSltiu (rd rs1 : RegIdx) (imm : BitVec 12) (s : State) : Result := actSltiu (operandsI rd rs1 imm s) s

/-- R88. -/
def actXori (o : Operands) (s : State) : Result := writeAndAdvance o.rd (o.src1 ^^^ o.imm) s

/-- R88: the action of `xori` on its own operands, type I. -/
def execXori (rd rs1 : RegIdx) (imm : BitVec 12) (s : State) : Result := actXori (operandsI rd rs1 imm s) s

/-- R89. -/
def actOri (o : Operands) (s : State) : Result := writeAndAdvance o.rd (o.src1 ||| o.imm) s

/-- R89: the action of `ori` on its own operands, type I. -/
def execOri (rd rs1 : RegIdx) (imm : BitVec 12) (s : State) : Result := actOri (operandsI rd rs1 imm s) s

/-- R90. -/
def actAndi (o : Operands) (s : State) : Result := writeAndAdvance o.rd (o.src1 &&& o.imm) s

/-- R90: the action of `andi` on its own operands, type I. -/
def execAndi (rd rs1 : RegIdx) (imm : BitVec 12) (s : State) : Result := actAndi (operandsI rd rs1 imm s) s

/-- R91: the template fixes `imm[11:6]` to 000000. -/
def actSlli (o : Operands) (s : State) : Result := shiftImmediate o shiftLeft s

/-- R91: the action of `slli` on its own operands, type I. -/
def execSlli (rd rs1 : RegIdx) (imm6 : BitVec 6) (s : State) : Result :=
  actSlli (operandsI rd rs1 (0b000000#6 ++ imm6) s) s

/-- R92: the template fixes `imm[11:6]` to 000000. -/
def actSrli (o : Operands) (s : State) : Result := shiftImmediate o shiftRightLogical s

/-- R92: the action of `srli` on its own operands, type I. -/
def execSrli (rd rs1 : RegIdx) (imm6 : BitVec 6) (s : State) : Result :=
  actSrli (operandsI rd rs1 (0b000000#6 ++ imm6) s) s

/-- R93: the template fixes `imm[11:6]` to 010000, which does not enter the amount. -/
def actSrai (o : Operands) (s : State) : Result := shiftImmediate o shiftRightArith s

/-- R93: the action of `srai` on its own operands, type I. -/
def execSrai (rd rs1 : RegIdx) (imm6 : BitVec 6) (s : State) : Result :=
  actSrai (operandsI rd rs1 (0b010000#6 ++ imm6) s) s

end Sys2Proof.Machine
end

