-- ==== Sys2Proof/Machine/ControlTransfer.lean ====
section
/-! DEFINITION. The actions of table entries 22 to 29 (spec/43_control_transfer.md), the only ones that set `s.dnpc`. No
target is checked, there are no delay slots (R118), and no register is treated specially (R119). -/

namespace Sys2Proof.Machine

/-- `if cond then s.dnpc <- (s.pc + imm)[31:0]`, otherwise `s.dnpc` keeps `s.snpc` (R112 to R117). -/
def branchIf (cond : Bool) (o : Operands) (s : State) : Result :=
  .next (s.setPc (if cond then s.pc + o.imm else s.snpc))

/-- R110: the link is the address after the `jal`; the target is relative to the `jal` itself. -/
def actJal (o : Operands) (s : State) : Result := .next ((s.writeReg o.rd s.snpc).setPc (s.pc + o.imm))

/-- R110: the action of `jal` on its own operands, type J. -/
def execJal (rd : RegIdx) (offset : BitVec 21) (s : State) : Result := actJal (operandsJ rd offset) s

/-- R111: the target uses the value `x[rs1]` had before, bit 0 cleared. -/
def actJalr (o : Operands) (s : State) : Result :=
  .next ((s.writeReg o.rd s.snpc).setPc ((o.src1 + o.imm) &&& 0xfffffffe#32))

/-- R111: the action of `jalr` on its own operands, type I. -/
def execJalr (rd rs1 : RegIdx) (imm : BitVec 12) (s : State) : Result := actJalr (operandsI rd rs1 imm s) s

/-- R112. -/
def actBeq (o : Operands) (s : State) : Result := branchIf (o.src1 == o.src2) o s

/-- R112: the action of `beq` on its own operands, type B. -/
def execBeq (rs1 rs2 : RegIdx) (offset : BitVec 13) (s : State) : Result := actBeq (operandsB rs1 rs2 offset s) s

/-- R113. -/
def actBne (o : Operands) (s : State) : Result := branchIf (o.src1 != o.src2) o s

/-- R113: the action of `bne` on its own operands, type B. -/
def execBne (rs1 rs2 : RegIdx) (offset : BitVec 13) (s : State) : Result := actBne (operandsB rs1 rs2 offset s) s

/-- R114. -/
def actBlt (o : Operands) (s : State) : Result := branchIf (ltSigned o.src1 o.src2) o s

/-- R114: the action of `blt` on its own operands, type B. -/
def execBlt (rs1 rs2 : RegIdx) (offset : BitVec 13) (s : State) : Result := actBlt (operandsB rs1 rs2 offset s) s

/-- R115. -/
def actBge (o : Operands) (s : State) : Result := branchIf (!ltSigned o.src1 o.src2) o s

/-- R115: the action of `bge` on its own operands, type B. -/
def execBge (rs1 rs2 : RegIdx) (offset : BitVec 13) (s : State) : Result := actBge (operandsB rs1 rs2 offset s) s

/-- R116. -/
def actBltu (o : Operands) (s : State) : Result := branchIf (ltUnsigned o.src1 o.src2) o s

/-- R116: the action of `bltu` on its own operands, type B. -/
def execBltu (rs1 rs2 : RegIdx) (offset : BitVec 13) (s : State) : Result := actBltu (operandsB rs1 rs2 offset s) s

/-- R117. -/
def actBgeu (o : Operands) (s : State) : Result := branchIf (!ltUnsigned o.src1 o.src2) o s

/-- R117: the action of `bgeu` on its own operands, type B. -/
def execBgeu (rs1 rs2 : RegIdx) (offset : BitVec 13) (s : State) : Result := actBgeu (operandsB rs1 rs2 offset s) s

end Sys2Proof.Machine
end

