-- ==== Sys2Proof/Machine/IntegerRegister.lean ====
section
/-! DEFINITION. The actions of table entries 12 to 21 (spec/42_integer_register.md): none touches memory or `s.dnpc` and
none can raise. -/

namespace Sys2Proof.Machine

/-- R100. -/
def actAdd (o : Operands) (s : State) : Result := writeAndAdvance o.rd (o.src1 + o.src2) s

/-- R100: the action of `add` on its own operands, type R. -/
def execAdd (rd rs1 rs2 : RegIdx) (s : State) : Result := actAdd (operandsR rd rs1 rs2 s) s

/-- R101. -/
def actSub (o : Operands) (s : State) : Result := writeAndAdvance o.rd (o.src1 - o.src2) s

/-- R101: the action of `sub` on its own operands, type R. -/
def execSub (rd rs1 rs2 : RegIdx) (s : State) : Result := actSub (operandsR rd rs1 rs2 s) s

/-- R102. -/
def actSll (o : Operands) (s : State) : Result := writeAndAdvance o.rd (shiftLeft o.src1 (shiftAmount o.src2)) s

/-- R102: the action of `sll` on its own operands, type R. -/
def execSll (rd rs1 rs2 : RegIdx) (s : State) : Result := actSll (operandsR rd rs1 rs2 s) s

/-- R103. -/
def actSlt (o : Operands) (s : State) : Result := writeAndAdvance o.rd (boolWord (ltSigned o.src1 o.src2)) s

/-- R103: the action of `slt` on its own operands, type R. -/
def execSlt (rd rs1 rs2 : RegIdx) (s : State) : Result := actSlt (operandsR rd rs1 rs2 s) s

/-- R104. -/
def actSltu (o : Operands) (s : State) : Result := writeAndAdvance o.rd (boolWord (ltUnsigned o.src1 o.src2)) s

/-- R104: the action of `sltu` on its own operands, type R. -/
def execSltu (rd rs1 rs2 : RegIdx) (s : State) : Result := actSltu (operandsR rd rs1 rs2 s) s

/-- R105. -/
def actXor (o : Operands) (s : State) : Result := writeAndAdvance o.rd (o.src1 ^^^ o.src2) s

/-- R105: the action of `xor` on its own operands, type R. -/
def execXor (rd rs1 rs2 : RegIdx) (s : State) : Result := actXor (operandsR rd rs1 rs2 s) s

/-- R106. -/
def actSrl (o : Operands) (s : State) : Result := writeAndAdvance o.rd (shiftRightLogical o.src1 (shiftAmount o.src2)) s

/-- R106: the action of `srl` on its own operands, type R. -/
def execSrl (rd rs1 rs2 : RegIdx) (s : State) : Result := actSrl (operandsR rd rs1 rs2 s) s

/-- R107. -/
def actSra (o : Operands) (s : State) : Result := writeAndAdvance o.rd (shiftRightArith o.src1 (shiftAmount o.src2)) s

/-- R107: the action of `sra` on its own operands, type R. -/
def execSra (rd rs1 rs2 : RegIdx) (s : State) : Result := actSra (operandsR rd rs1 rs2 s) s

/-- R108. -/
def actOr (o : Operands) (s : State) : Result := writeAndAdvance o.rd (o.src1 ||| o.src2) s

/-- R108: the action of `or` on its own operands, type R. -/
def execOr (rd rs1 rs2 : RegIdx) (s : State) : Result := actOr (operandsR rd rs1 rs2 s) s

/-- R109. -/
def actAnd (o : Operands) (s : State) : Result := writeAndAdvance o.rd (o.src1 &&& o.src2) s

/-- R109: the action of `and` on its own operands, type R. -/
def execAnd (rd rs1 rs2 : RegIdx) (s : State) : Result := actAnd (operandsR rd rs1 rs2 s) s

end Sys2Proof.Machine
end

