-- ==== Sys2Proof/Machine/LoadStore.lean ====
section
/-! DEFINITION. The actions of table entries 30 to 37 (spec/44_load_store.md). Each makes exactly one call on the memory
port at `(src1 + imm)[31:0]`, with no alignment check (R120); a fault of the port is `Fatal(MemFault)` (20_memory.md
R38). -/

namespace Sys2Proof.Machine

/-- `sext_8` (R5, R121). -/
def signExtendByte (v : Word) : Word := (v.setWidth 8).signExtend 32

/-- `sext_16` (R5, R122). -/
def signExtendHalf (v : Word) : Word := (v.setWidth 16).signExtend 32

/-- The low bits of a word that a store of this width writes (R32). -/
def Width.truncate : Width → Word → Word
  | .one, v => (v.setWidth 8).setWidth 32
  | .two, v => (v.setWidth 16).setWidth 32
  | .four, v => v

/-- `x[rd] <- ext(MemRead(addr, n))`. `MemRead` answers an unsigned number, so zero extension is the identity. The call
is made for `rd = 0` too (R66). -/
def loadFrom (w : Width) (ext : Word → Word) (o : Operands) (s : State) : Result :=
  let s1 := s.logCall (.read o.address w)
  match s1.memRead o.address w with
  | some v => writeAndAdvance o.rd (ext v) s1
  | none => .next (takeRaise s1 (.fatal .memFault))

/-- `MemWrite(addr, n, src2)`. -/
def storeTo (w : Width) (o : Operands) (s : State) : Result :=
  let s1 := s.logCall (.write o.address w (w.truncate o.src2))
  match s1.memWrite o.address w o.src2 with
  | some s2 => .next (s2.setPc s.snpc)
  | none => .next (takeRaise s1 (.fatal .memFault))

/-- R121. -/
def actLb (o : Operands) (s : State) : Result := loadFrom .one signExtendByte o s

/-- R121: the action of `lb` on its own operands, type I. -/
def execLb (rd rs1 : RegIdx) (imm : BitVec 12) (s : State) : Result :=
  actLb (operandsI rd rs1 imm s) s

/-- R122. -/
def actLh (o : Operands) (s : State) : Result := loadFrom .two signExtendHalf o s

/-- R122: the action of `lh` on its own operands, type I. -/
def execLh (rd rs1 : RegIdx) (imm : BitVec 12) (s : State) : Result :=
  actLh (operandsI rd rs1 imm s) s

/-- R123. -/
def actLw (o : Operands) (s : State) : Result := loadFrom .four id o s

/-- R123: the action of `lw` on its own operands, type I. -/
def execLw (rd rs1 : RegIdx) (imm : BitVec 12) (s : State) : Result :=
  actLw (operandsI rd rs1 imm s) s

/-- R124. -/
def actLbu (o : Operands) (s : State) : Result := loadFrom .one id o s

/-- R124: the action of `lbu` on its own operands, type I. -/
def execLbu (rd rs1 : RegIdx) (imm : BitVec 12) (s : State) : Result :=
  actLbu (operandsI rd rs1 imm s) s

/-- R125. -/
def actLhu (o : Operands) (s : State) : Result := loadFrom .two id o s

/-- R125: the action of `lhu` on its own operands, type I. -/
def execLhu (rd rs1 : RegIdx) (imm : BitVec 12) (s : State) : Result :=
  actLhu (operandsI rd rs1 imm s) s

/-- R126. -/
def actSb (o : Operands) (s : State) : Result := storeTo .one o s

/-- R126: the action of `sb` on its own operands, type S. -/
def execSb (rs1 rs2 : RegIdx) (imm : BitVec 12) (s : State) : Result :=
  actSb (operandsS rs1 rs2 imm s) s

/-- R127. -/
def actSh (o : Operands) (s : State) : Result := storeTo .two o s

/-- R127: the action of `sh` on its own operands, type S. -/
def execSh (rs1 rs2 : RegIdx) (imm : BitVec 12) (s : State) : Result :=
  actSh (operandsS rs1 rs2 imm s) s

/-- R128. -/
def actSw (o : Operands) (s : State) : Result := storeTo .four o s

/-- R128: the action of `sw` on its own operands, type S. -/
def execSw (rs1 rs2 : RegIdx) (imm : BitVec 12) (s : State) : Result :=
  actSw (operandsS rs1 rs2 imm s) s

end Sys2Proof.Machine
end

