-- ==== Sys2Proof/Machine/MulDiv.lean ====
section
/-! DEFINITION. The actions of table entries 38 to 45 (spec/45_muldiv.md): none touches memory or `s.dnpc` and none can
raise; "division by zero does not trap". -/

namespace Sys2Proof.Machine

/-- R131. -/
def actMul (o : Operands) (s : State) : Result := writeAndAdvance o.rd (mulLow o.src1 o.src2) s

/-- R131: the action of `mul` on its own operands, type R. -/
def execMul (rd rs1 rs2 : RegIdx) (s : State) : Result := actMul (operandsR rd rs1 rs2 s) s

/-- R132. -/
def actMulh (o : Operands) (s : State) : Result := writeAndAdvance o.rd (mulHighSigned o.src1 o.src2) s

/-- R132: the action of `mulh` on its own operands, type R. -/
def execMulh (rd rs1 rs2 : RegIdx) (s : State) : Result := actMulh (operandsR rd rs1 rs2 s) s

/-- R133. -/
def actMulhsu (o : Operands) (s : State) : Result := writeAndAdvance o.rd (mulHighSignedUnsigned o.src1 o.src2) s

/-- R133: the action of `mulhsu` on its own operands, type R. -/
def execMulhsu (rd rs1 rs2 : RegIdx) (s : State) : Result := actMulhsu (operandsR rd rs1 rs2 s) s

/-- R134. -/
def actMulhu (o : Operands) (s : State) : Result := writeAndAdvance o.rd (mulHighUnsigned o.src1 o.src2) s

/-- R134: the action of `mulhu` on its own operands, type R. -/
def execMulhu (rd rs1 rs2 : RegIdx) (s : State) : Result := actMulhu (operandsR rd rs1 rs2 s) s

/-- R135. -/
def actDiv (o : Operands) (s : State) : Result := writeAndAdvance o.rd (divSigned o.src1 o.src2) s

/-- R135: the action of `div` on its own operands, type R. -/
def execDiv (rd rs1 rs2 : RegIdx) (s : State) : Result := actDiv (operandsR rd rs1 rs2 s) s

/-- R136. -/
def actDivu (o : Operands) (s : State) : Result := writeAndAdvance o.rd (divUnsigned o.src1 o.src2) s

/-- R136: the action of `divu` on its own operands, type R. -/
def execDivu (rd rs1 rs2 : RegIdx) (s : State) : Result := actDivu (operandsR rd rs1 rs2 s) s

/-- R137. -/
def actRem (o : Operands) (s : State) : Result := writeAndAdvance o.rd (remSigned o.src1 o.src2) s

/-- R137: the action of `rem` on its own operands, type R. -/
def execRem (rd rs1 rs2 : RegIdx) (s : State) : Result := actRem (operandsR rd rs1 rs2 s) s

/-- R138. -/
def actRemu (o : Operands) (s : State) : Result := writeAndAdvance o.rd (remUnsigned o.src1 o.src2) s

/-- R138: the action of `remu` on its own operands, type R. -/
def execRemu (rd rs1 rs2 : RegIdx) (s : State) : Result := actRemu (operandsR rd rs1 rs2 s) s

end Sys2Proof.Machine
end

