-- ==== Sys2Proof/Machine/System.lean ====
section
/-! DEFINITION. The actions of table entries 46 and 47, and the halt action (spec/46_system.md). -/

namespace Sys2Proof.Machine

/-- R140: `raise DebugTrap(x[TRAP_RET_REG])`. -/
def actEbreak (s : State) : Result := .next (takeRaise s (.debugTrap (s.readReg trapRetReg)))

/-- R140: the action of `ebreak` (type N, no field is decoded). -/
def execEbreak (s : State) : Result := actEbreak s

/-- R141: `raise InvalidInstruction`. -/
def actInv (s : State) : Result := .next (takeRaise s .invalidInstruction)

/-- R141: the action of `inv`, whatever the word (type N, no field is decoded). -/
def execInv (_word : Word) (s : State) : Result := actInv s

/-- The action of a `HALT_PATTERNS` entry: `raise Halt(x[TRAP_RET_REG])` (R81, R142). -/
def haltAction (s : State) : Result := .next (takeRaise s (.halt (s.readReg trapRetReg)))

end Sys2Proof.Machine
end

