-- ==== Sys2Proof/Machine/Actions.lean ====
section
/-! DEFINITION. The action of a pattern entry on a decoded operand tuple (spec/40_dispatch_step.md R74, R75), and the
action and the tuple of each instruction. -/

namespace Sys2Proof.Machine

/-- `e.action(s, rd, src1, src2, imm)` (R71 (4), R75), with the step's last act (R77). A table other than the default may
give an action a tag that leaves a field the action reads at zero: the field is read as that zero (R48, log 21). -/
def runAction (a : Action) (o : Operands) (s : State) : Result :=
  match a with
  | .lui => actLui o s
  | .auipc => actAuipc o s
  | .addi => actAddi o s
  | .slti => actSlti o s
  | .sltiu => actSltiu o s
  | .xori => actXori o s
  | .ori => actOri o s
  | .andi => actAndi o s
  | .slli => actSlli o s
  | .srli => actSrli o s
  | .srai => actSrai o s
  | .add => actAdd o s
  | .sub => actSub o s
  | .sll => actSll o s
  | .slt => actSlt o s
  | .sltu => actSltu o s
  | .xor => actXor o s
  | .srl => actSrl o s
  | .sra => actSra o s
  | .or => actOr o s
  | .and => actAnd o s
  | .jal => actJal o s
  | .jalr => actJalr o s
  | .beq => actBeq o s
  | .bne => actBne o s
  | .blt => actBlt o s
  | .bge => actBge o s
  | .bltu => actBltu o s
  | .bgeu => actBgeu o s
  | .lb => actLb o s
  | .lh => actLh o s
  | .lw => actLw o s
  | .lbu => actLbu o s
  | .lhu => actLhu o s
  | .sb => actSb o s
  | .sh => actSh o s
  | .sw => actSw o s
  | .mul => actMul o s
  | .mulh => actMulh o s
  | .mulhsu => actMulhsu o s
  | .mulhu => actMulhu o s
  | .div => actDiv o s
  | .divu => actDivu o s
  | .rem => actRem o s
  | .remu => actRemu o s
  | .ebreak => actEbreak s
  | .inv => actInv s
  | .halt => haltAction s

/-- The action of an instruction. -/
def instrAction : Instr → Action
  | .lui _ _ => .lui
  | .auipc _ _ => .auipc
  | .addi _ _ _ => .addi
  | .slti _ _ _ => .slti
  | .sltiu _ _ _ => .sltiu
  | .xori _ _ _ => .xori
  | .ori _ _ _ => .ori
  | .andi _ _ _ => .andi
  | .slli _ _ _ => .slli
  | .srli _ _ _ => .srli
  | .srai _ _ _ => .srai
  | .add _ _ _ => .add
  | .sub _ _ _ => .sub
  | .sll _ _ _ => .sll
  | .slt _ _ _ => .slt
  | .sltu _ _ _ => .sltu
  | .xor _ _ _ => .xor
  | .srl _ _ _ => .srl
  | .sra _ _ _ => .sra
  | .or _ _ _ => .or
  | .and _ _ _ => .and
  | .jal _ _ => .jal
  | .jalr _ _ _ => .jalr
  | .beq _ _ _ => .beq
  | .bne _ _ _ => .bne
  | .blt _ _ _ => .blt
  | .bge _ _ _ => .bge
  | .bltu _ _ _ => .bltu
  | .bgeu _ _ _ => .bgeu
  | .lb _ _ _ => .lb
  | .lh _ _ _ => .lh
  | .lw _ _ _ => .lw
  | .lbu _ _ _ => .lbu
  | .lhu _ _ _ => .lhu
  | .sb _ _ _ => .sb
  | .sh _ _ _ => .sh
  | .sw _ _ _ => .sw
  | .mul _ _ _ => .mul
  | .mulh _ _ _ => .mulh
  | .mulhsu _ _ _ => .mulhsu
  | .mulhu _ _ _ => .mulhu
  | .div _ _ _ => .div
  | .divu _ _ _ => .divu
  | .rem _ _ _ => .rem
  | .remu _ _ _ => .remu
  | .ebreak => .ebreak
  | .inv _ => .inv

/-- The operand tuple of an instruction (R16, R49 to R55, R58). -/
def instrOperands (s : State) : Instr → Operands
  | .lui rd imm20 | .auipc rd imm20 => operandsU rd imm20
  | .addi rd rs1 imm | .slti rd rs1 imm | .sltiu rd rs1 imm | .xori rd rs1 imm => operandsI rd rs1 imm s
  | .ori rd rs1 imm | .andi rd rs1 imm | .jalr rd rs1 imm => operandsI rd rs1 imm s
  | .slli rd rs1 imm6 | .srli rd rs1 imm6 => operandsI rd rs1 (0b000000#6 ++ imm6) s
  | .srai rd rs1 imm6 => operandsI rd rs1 (0b010000#6 ++ imm6) s
  | .add rd rs1 rs2 | .sub rd rs1 rs2 | .sll rd rs1 rs2 | .slt rd rs1 rs2 | .sltu rd rs1 rs2 => operandsR rd rs1 rs2 s
  | .xor rd rs1 rs2 | .srl rd rs1 rs2 | .sra rd rs1 rs2 | .or rd rs1 rs2 | .and rd rs1 rs2 => operandsR rd rs1 rs2 s
  | .jal rd offset => operandsJ rd offset
  | .beq rs1 rs2 offset | .bne rs1 rs2 offset | .blt rs1 rs2 offset => operandsB rs1 rs2 offset s
  | .bge rs1 rs2 offset | .bltu rs1 rs2 offset | .bgeu rs1 rs2 offset => operandsB rs1 rs2 offset s
  | .lb rd rs1 imm | .lh rd rs1 imm | .lw rd rs1 imm | .lbu rd rs1 imm | .lhu rd rs1 imm => operandsI rd rs1 imm s
  | .sb rs1 rs2 imm | .sh rs1 rs2 imm | .sw rs1 rs2 imm => operandsS rs1 rs2 imm s
  | .mul rd rs1 rs2 | .mulh rd rs1 rs2 | .mulhsu rd rs1 rs2 | .mulhu rd rs1 rs2 => operandsR rd rs1 rs2 s
  | .div rd rs1 rs2 | .divu rd rs1 rs2 | .rem rd rs1 rs2 | .remu rd rs1 rs2 => operandsR rd rs1 rs2 s
  | .ebreak | .inv _ => operandsN

end Sys2Proof.Machine
end

