-- ==== Sys2Proof/Machine/RunLoop.lean ====
section
/-! DEFINITION. The run loop (spec/60_exceptions.md R182): one round of it is one `exec_once` (40_dispatch_step.md R71)
and the handling of its outcome, one scan, and the end of the run where it ends. -/

namespace Sys2Proof.Machine

/-- `run` returns `k` and the change list of its last scan (R182). -/
def endRun (changes : List Change) (s : State) : State := s.respond (.runEnded s.progress.done changes)

/-- `k <- k + 1` (R182 (d)). -/
def countStep (s : State) : State :=
  { s with progress := { left := s.progress.left.map (· - 1), done := s.progress.done + 1 } }

/-- Items (d) and (e) of R182 after the scan: the loop goes on while the state is RUNNING and steps are left; a run that
has done its steps ends STOPPED. -/
def closeRound (changes : List Change) (s : State) : State :=
  if s.runState = .running then
    (if s.progress.left = some 0 then endRun changes (s.setRunState .stopped) else s)
  else endRun changes s

/-- A round after `exec_once`: a step that ended FATAL leaves the loop at once, without a scan; any other is followed by
the scan (R182 (d), R193). -/
def afterInstruction (s : State) : State :=
  if (countStep s).runState = .fatal then endRun [] (countStep s)
  else closeRound (detectChanges (countStep s)).1 (detectChanges (countStep s)).2

/-- The state in which an action runs: the fetch has been made (R43, R72). -/
def fetched (s : State) : State := s.logCall (.read s.pc .four)

/-- Decode and execute one word (R74, R75): the instruction the matched entry selects, or the entry's action on the tuple
its tag decodes. -/
def runSelected (sel : Selected) (s : State) : Result :=
  match sel with
  | .instr i => exec i s
  | .action a tag w => runAction a (decodeOperands w s tag) s

/-- One round of the loop in RUNNING. A fault of the fetch ends the step before any match (R199, log 10). A run with no
step left ends; no command leaves the loop in that state. -/
def runRound (s : State) : Result :=
  if s.progress.left = some 0 then .next (endRun [] (s.setRunState .stopped))
  else
    match s.fetchWord with
    | none => .next (endRun [] ((countStep (fetched s)).enterFatal .memFault))
    | some w =>
      match runSelected (dispatchWord s.cfg.table w) (fetched s) with
      | .next t => .next (afterInstruction t)
      | .fault r => .fault r
      | .refused r => .refused r

end Sys2Proof.Machine
end

