-- ==== Sys2Proof/Machine/Step.lean ====
section
/-! DEFINITION. One transition of the block: a round of the run loop while a `run` is in progress, else the next input
(spec/60_exceptions.md R180, R182; log 7, log 8). -/

namespace Sys2Proof.Machine

/-- The outputs of the previous transition are gone; this one reports its own. -/
def State.clearOutputs (s : State) : State := { s with response := none, port := [] }

/-- One transition. With no run in progress and no input the block is idle (R202). -/
def step (s : State) : Host.Outcome State Fault Refusal :=
  if s.runState = .running then runRound s.clearOutputs
  else
    match s.inputs with
    | [] => .next s.clearOutputs
    | input :: rest => .next (applyInput { s.clearOutputs with inputs := rest } input)

/-- The state with one instruction word stored at `pc` and a `run(-1)` just accepted, so that the next step fetches and
runs it: the bits above `nbits` are zero (log 7). -/
def State.withFetchWord (s : State) (nbits w : Nat) : State :=
  { s with
    mem := Memory.write s.mem s.pc (BitVec.ofNat 32 (w % 2 ^ nbits)) .four
    runState := .running
    progress := { left := none, done := 0 } }

end Sys2Proof.Machine
end

