-- ==== Sys2Proof/Safety.lean ====
section
/-! DEFINITION. What holds in every state the block reaches, and what a safe run is, in the terms the statements use
(spec/60_exceptions.md R188, R195). -/

namespace Sys2Proof.Machine

/-- R195 (1), (2), R21: "Exactly one of {free-list, active-list} owns a given slot at any time". -/
def PoolPartition (s : State) : Prop := (s.freeList ++ s.activeList).Perm (List.finRange numSlots)

/-- R195 (5): a slot in the free list has an empty `expr`. -/
def FreeSlotsClear (s : State) : Prop := ∀ h ∈ s.freeList, (s.slot h).expr = []

/-- R195 (4): a slot in the active list has a text that tokenizes without syntax error to at least one token; and it is
within the capacities of R155. -/
def ActiveTextsTokenize (s : State) : Prop :=
  ∀ h ∈ s.activeList, ∃ tokens, tokenize (s.slot h).expr = .ok tokens ∧ tokens ≠ []
    ∧ exceeds tokens.length s.cfg.maxTokens = false ∧ exceeds (s.slot h).expr.length s.cfg.maxExprLen = false

/-- The invariant of the block: memory in canonical form, the pool invariants of R195, and a `run` in progress has a
step left to execute (R182). -/
structure Inv (s : State) : Prop where
  memory : Memory.wf s.mem
  pool : PoolPartition s
  freeClear : FreeSlotsClear s
  activeTexts : ActiveTextsTokenize s
  running : s.runState = .running → s.progress.left ≠ some 0

/-- A state whose run has met no fatal condition (R188). -/
def Safe (s : State) : Prop := s.runState ≠ .fatal

/-- The part of the state the emulated program can read or write: registers, `pc` and memory, over the same parameters
(R196). -/
def SameProgramState (s t : State) : Prop :=
  s.regs = t.regs ∧ s.pc = t.pc ∧ s.mem = t.mem ∧ s.cfg = t.cfg

end Sys2Proof.Machine
end

