-- ==== Sys2Proof/Certificates/Slice0/Obligations.lean ====
section
/-! DEFINITION. The statements for the provers, and the predicates they are written with. A result is written as exact
integer or natural arithmetic, or bit by bit, and not through the operation the meaning calls. -/

namespace Sys2Proof.Machine

/-! ## What an instruction leaves unchanged -/

/-- Every register but `rd` reads as before. -/
def OtherRegistersUnchanged (s t : State) (rd : RegIdx) : Prop := ∀ r, r ≠ rd → t.readReg r = s.readReg r

/-- Every register reads as before. -/
def RegistersUnchanged (s t : State) : Prop := ∀ r, t.readReg r = s.readReg r

/-- Every byte of memory reads as before. -/
def MemoryUnchanged (s t : State) : Prop := ∀ a, Memory.byte t.mem a = Memory.byte s.mem a

/-- The watchpoint pool, the parameters, the inputs and the run in progress are as before. -/
structure PoolUnchanged (s t : State) : Prop where
  slots : t.slots = s.slots
  freeList : t.freeList = s.freeList
  activeList : t.activeList = s.activeList
  cfg : t.cfg = s.cfg
  inputs : t.inputs = s.inputs
  progress : t.progress = s.progress
  response : t.response = s.response

/-- The run state, the trap record and everything `PoolUnchanged` names are as before: all of the state but registers,
`pc`, memory and the list of port calls. -/
structure ControlUnchanged (s t : State) : Prop where
  runState : t.runState = s.runState
  haltRet : t.haltRet = s.haltRet
  trapPc : t.trapPc = s.trapPc
  trapPcSet : t.trapPcSet = s.trapPcSet
  fatalReason : t.fatalReason = s.fatalReason
  fresh : t.fresh = s.fresh
  pool : PoolUnchanged s t

/-! ## How an instruction completes -/

/-- `i` completes: `x[rd]` is `v` (nothing is written where `rd` is 0), `pc` is `pc'`, the port calls made are `calls`,
and everything else is as before. -/
def CompletesWriting (i : Instr) (s : State) (rd : RegIdx) (v pc' : Word) (calls : List PortCall) : Prop :=
  ∃ t, exec i s = .next t ∧ t.readReg rd = (if rd = 0#5 then 0#32 else v) ∧ OtherRegistersUnchanged s t rd
    ∧ t.pc = pc' ∧ t.port = s.port ++ calls ∧ MemoryUnchanged s t ∧ ControlUnchanged s t

/-- `i` completes and only moves `pc`, to `pc'`. -/
def CompletesMoving (i : Instr) (s : State) (pc' : Word) : Prop :=
  ∃ t, exec i s = .next t ∧ RegistersUnchanged s t ∧ t.pc = pc' ∧ t.port = s.port ∧ MemoryUnchanged s t
    ∧ ControlUnchanged s t

/-- `i` completes and stores at the addresses `w.addrs a` the low bytes of `v`, lowest address first; `pc` is 4 further,
and everything else is as before. -/
def CompletesStoring (i : Instr) (s : State) (a : Word) (w : Width) (v : Word) (stored : Word) : Prop :=
  ∃ t, exec i s = .next t ∧ RegistersUnchanged s t ∧ t.pc = s.pc + 4#32
    ∧ t.port = s.port ++ [.write a w stored]
    ∧ (∀ k : Nat, ∀ b : Word, (w.addrs a)[k]? = some b → Memory.byte t.mem b = v.extractLsb' (8 * k) 8)
    ∧ (∀ b : Word, b ∉ w.addrs a → Memory.byte t.mem b = Memory.byte s.mem b)
    ∧ ControlUnchanged s t

/-- `i` ends in run state `r` with `trap_pc` at `i` itself and `pc` after it; registers, memory and the pool are as
before, and no port call is made. -/
def CompletesTrapping (i : Instr) (s : State) (r : RunState) (t : State) : Prop :=
  exec i s = .next t ∧ t.runState = r ∧ t.trapPc = s.pc ∧ t.trapPcSet = true ∧ t.pc = s.pc + 4#32
    ∧ RegistersUnchanged s t ∧ MemoryUnchanged s t ∧ t.fatalReason = s.fatalReason ∧ t.port = s.port
    ∧ PoolUnchanged s t

/-- `i` ends in the fatal condition of a memory fault: nothing is written. The model's choices: `pc` is 4 further (log 9),
`halt_ret` is kept (log 16), and the call `c` that faults is listed among the port calls (log 17). -/
def CompletesFaulting (i : Instr) (s : State) (c : PortCall) : Prop :=
  ∃ t, exec i s = .next t ∧ t.runState = .fatal ∧ t.fatalReason = .memFault ∧ t.haltRet = s.haltRet
    ∧ t.trapPc = s.trapPc ∧ t.pc = s.pc + 4#32 ∧ t.port = s.port ++ [c] ∧ RegistersUnchanged s t
    ∧ MemoryUnchanged s t ∧ PoolUnchanged s t

/-- `i` raises the fatal condition of a memory fault, and no register is written (R38). -/
def RaisesMemFault (i : Instr) (s : State) : Prop :=
  ∃ t, exec i s = .next t ∧ t.runState = .fatal ∧ t.fatalReason = .memFault ∧ RegistersUnchanged s t

/-- `i` is rejected as R96 says, under either value of `SHAMT5_POLICY`. -/
def CompletesRejected (i : Instr) (s : State) : Prop :=
  (s.cfg.shamt5Policy = .invalid → ∃ t, CompletesTrapping i s .trappedBad t)
    ∧ (s.cfg.shamt5Policy = .nop → CompletesMoving i s (s.pc + 4#32))

/-- Row `order` of the default table has this template, type, mask and value, and every word that matches it decodes to the
instruction `f` gives. -/
def TableRow (order : Nat) (tag : TypeTag) (template : String) (mask value : Word) (f : Word → Instr) : Prop :=
  (∃ a, defaultDeclarations[order - 1]? = some { template := template.toList, tag := tag, action := a }
      ∧ defaultTable[order - 1]? = some { mask := mask, value := value, tag := tag, action := a })
    ∧ ∀ w : Word, w &&& mask = value → decodeWord w = f w

/-- A row of type R: `rd = inst[11:7]`, `rs1 = inst[19:15]`, `rs2 = inst[24:20]`. -/
def TableRowR (order : Nat) (template : String) (value : Word) (f : RegIdx → RegIdx → RegIdx → Instr) : Prop :=
  TableRow order .R template 0xfe00707f#32 value
    fun w => f (w.extractLsb' 7 5) (w.extractLsb' 15 5) (w.extractLsb' 20 5)

/-- A row of type I: `rd = inst[11:7]`, `rs1 = inst[19:15]`, the immediate `inst[31:20]`. -/
def TableRowI (order : Nat) (template : String) (value : Word) (f : RegIdx → RegIdx → BitVec 12 → Instr) : Prop :=
  TableRow order .I template 0x0000707f#32 value
    fun w => f (w.extractLsb' 7 5) (w.extractLsb' 15 5) (w.extractLsb' 20 12)

/-- A shift-immediate row: as type I, with `inst[25:20]` the mode bit and the amount. -/
def TableRowShift (order : Nat) (template : String) (value : Word) (f : RegIdx → RegIdx → BitVec 6 → Instr) : Prop :=
  TableRow order .I template 0xfc00707f#32 value
    fun w => f (w.extractLsb' 7 5) (w.extractLsb' 15 5) (w.extractLsb' 20 6)

/-- A row of type S: `rs1 = inst[19:15]`, `rs2 = inst[24:20]`, the immediate `inst[31:25] ++ inst[11:7]`. -/
def TableRowS (order : Nat) (template : String) (value : Word) (f : RegIdx → RegIdx → BitVec 12 → Instr) : Prop :=
  TableRow order .S template 0x0000707f#32 value
    fun w => f (w.extractLsb' 15 5) (w.extractLsb' 20 5) (w.extractLsb' 25 7 ++ w.extractLsb' 7 5)

/-- A row of type B: `rs1 = inst[19:15]`, `rs2 = inst[24:20]`, the offset
`inst[31] ++ inst[7] ++ inst[30:25] ++ inst[11:8] ++ 0`. -/
def TableRowB (order : Nat) (template : String) (value : Word) (f : RegIdx → RegIdx → BitVec 13 → Instr) : Prop :=
  TableRow order .B template 0x0000707f#32 value
    fun w => f (w.extractLsb' 15 5) (w.extractLsb' 20 5)
      (w.extractLsb' 31 1 ++ w.extractLsb' 7 1 ++ w.extractLsb' 25 6 ++ w.extractLsb' 8 4 ++ 0#1)

/-- The word that is 1 where the condition holds, else 0. -/
def oneIf (p : Prop) [Decidable p] : Word := if p then 1#32 else 0#32

/-! ## Steps of a run and the taking of inputs -/

/-- A `run` is in progress with a step left to execute. -/
def RunnableState (s : State) : Prop := s.runState = .running ∧ s.progress.left ≠ some 0

/-- What `exec_once` leaves behind, where the fetch succeeds: the state before the count and the scan. -/
def AfterExecOnce (s u : State) : Prop :=
  ∃ w, s.fetchWord = some w ∧ runSelected (dispatchWord s.cfg.table w) (fetched s.clearOutputs) = .next u

/-- The state in which an input is carried out: it has been taken from the list, and the outputs of the previous
transition are gone. -/
def taken (s : State) (rest : List Input) : State := { s.clearOutputs with inputs := rest }

/-- `c` is the next input, and no `run` is in progress. -/
def Given (s : State) (c : Command) (rest : List Input) : Prop :=
  s.runState ≠ .running ∧ s.inputs = .command c :: rest

/-- The states that accept `wp_set` and `wp_delete` (R181, R191). -/
def AcceptsWatchpoints (s : State) : Prop :=
  s.runState = .stopped ∨ s.runState = .trappedOk ∨ s.runState = .trappedBad ∨ s.runState = .halted

/-- The rows of the transition table of R189 for a command given while no `run` is in progress: the run state after it. -/
def CommandRow (before after : RunState) : Command → Prop
  | .reset => after = .stopped
  | .run steps => after = if before = .stopped ∧ (steps = -1 ∨ 0 < steps) then .running else before
  | .haltReq _ => after = if before = .stopped then .halted else before
  | .wpSet _ => after = before ∨ (before ≠ .quit ∧ after = .fatal)
  | .wpDelete _ => after = before
  | .quit => after = if before = .fatal then .fatal else .quit
  | .query _ => after = before

/-- `n` allocations in sequence: the handles in order, and the state after them. -/
def allocateMany : Nat → State → Option (List SlotIdx × State)
  | 0, s => some ([], s)
  | n + 1, s =>
    match allocate s with
    | none => none
    | some (h, s1) =>
      match allocateMany n s1 with
      | none => none
      | some (hs, s2) => some (h :: hs, s2)

/-- The data call an action makes on the port (R43). -/
def dataCalls (o : Operands) : Action → List PortCall
  | .lb | .lbu => [.read o.address .one]
  | .lh | .lhu => [.read o.address .two]
  | .lw => [.read o.address .four]
  | .sb => [.write o.address .one (o.src2 &&& 0xff#32)]
  | .sh => [.write o.address .two (o.src2 &&& 0xffff#32)]
  | .sw => [.write o.address .four o.src2]
  | _ => []

/-- The precedence class of a binary operator (R160): 0 logical-AND, 1 equality, 2 additive, 3 multiplicative. -/
def operatorClass : TokenType → Option Nat
  | .and => some 0
  | .eq | .neq => some 1
  | .plus | .minus => some 2
  | .star | .slash => some 3
  | _ => none

end Sys2Proof.Machine

open Sys2Proof Sys2Proof.Machine

/-! ## Encoding -/

/-- R46, R47, R61: no bit of an encoding is dropped. -/
def Obligations.DecodeOfEncodeIsTheInstruction : Prop :=
  ∀ (i : Instr) (rest : List Byte), wellFormed i = true →
    decodeBytes (bytesOfWord (encode i) ++ rest) = .ok (i, rest) ∧ decodeTableWord 32 (encode i).toNat = some i

/-- R64: the decoder is total, and one word stands for one well-formed instruction. -/
def Obligations.EncodeOfDecodeIsTheWord : Prop :=
  ∀ w : Word, wellFormed (decodeWord w) = true ∧ encode (decodeWord w) = w

/-- R64: the words that reach the catch-all are exactly those of the map in prose. -/
def Obligations.CatchAllWordsAreTheReservedOnes : Prop :=
  ∀ w : Word, ((∃ v, decodeWord w = .inv v) ↔ isReserved w = true)
    ∧ ((∀ e ∈ realEntries, w &&& e.mask ≠ e.value) ↔ isReserved w = true)

/-- R67 and R143, and the fence encodings of R41: the words of these classes are invalid and end the step in
TRAPPED_BAD. -/
def Obligations.UnknownOpcodeClassesAreInvalid : Prop :=
  ∀ w : Word,
    (w.extractLsb' 0 2 ≠ 0b11#2 ∨ (w.extractLsb' 0 7 = 0b1110011#7 ∧ w ≠ 0x00100073#32)
      ∨ w.extractLsb' 0 7 = 0b0001111#7) →
    decodeWord w = .inv w ∧ ∀ s, ∃ t, CompletesTrapping (decodeWord w) s .trappedBad t

/-- R62: the first entry in declared order is selected, on any table and whatever the overlap. -/
def Obligations.FirstMatchFollowsDeclaredOrder : Prop :=
  ∀ (table : List Entry) (w : Word) (e : Entry),
    firstMatch table w = some e ↔
      ∃ before after, table = before ++ e :: after ∧ w &&& e.mask = e.value
        ∧ ∀ d ∈ before, w &&& d.mask ≠ d.value

/-- R73, with the disjointness R61 states: the match always answers, on any table, with the first entry that matches; on
the default table that is the unique one of entries 1 to 46 or entry 47. -/
def Obligations.SelectedEntryIsUnique : Prop :=
  (∀ (cfg : Config) (w : Word), ∃ (k : Nat) (e : Entry), cfg.table[k]? = some e
    ∧ firstMatch cfg.table w = some e ∧ w &&& e.mask = e.value
    ∧ ∀ (j : Nat) (d : Entry), j < k → cfg.table[j]? = some d → w &&& d.mask ≠ d.value)
  ∧ defaultTable.length = 47
  ∧ ∀ w : Word, ∃ (k : Nat) (e : Entry), defaultTable[k]? = some e
    ∧ firstMatch defaultTable w = some e ∧ w &&& e.mask = e.value
    ∧ (∀ (j : Nat) (d : Entry), j < k → defaultTable[j]? = some d → w &&& d.mask ≠ d.value)
    ∧ (∀ (j : Nat) (d : Entry), j < 46 → defaultTable[j]? = some d → w &&& d.mask = d.value → j = k)

/-- R60: which pair a template converts to, bit by bit, and the examples of the rule; R59: which templates convert. -/
def Obligations.TemplateConversionIsBitByBit : Prop :=
  (∀ (text : Text) (p : Pattern), convertTemplate text = .ok p ↔
    ((text.filter (· != ' ')).length = 32 ∧ (∀ c ∈ text.filter (· != ' '), c = '0' ∨ c = '1' ∨ c = '?')
      ∧ ∀ i, i < 32 → ∃ c, (text.filter (· != ' '))[31 - i]? = some c
        ∧ p.mask.getLsbD i = (c == '0' || c == '1') ∧ p.value.getLsbD i = (c == '1')))
  ∧ (∀ (text : Text) (r : FatalReason), convertTemplate text = .error r → r = .badTemplate)
  ∧ convertTemplate "??????? ????? ????? 000 ????? 00100 11".toList = .ok ⟨0x0000707f#32, 0x00000013#32⟩
  ∧ convertTemplate "0000000 00001 00000 000 00000 11100 11".toList = .ok ⟨0xffffffff#32, 0x00100073#32⟩
  ∧ convertTemplate "??????? ????? ????? ??? ????? ????? ??".toList = .ok ⟨0#32, 0#32⟩

/-- R61, R222: each entry of the default table is what its declaration converts to, in order. -/
def Obligations.TableIsDerivedFromItsTemplates : Prop :=
  defaultDeclarations.map TemplateEntry.convert = defaultTable.map .ok

/-- The examples of R49 to R54, R96, R121, R131 and R140, and the all-zero word of R141. -/
def Obligations.SampleWordsDecode : Prop :=
  decodeWord 0xfff10093#32 = .addi 1#5 2#5 0xfff#12
  ∧ decodeWord 0x800012b7#32 = .lui 5#5 0x80001#20
  ∧ decodeWord 0x00112623#32 = .sw 2#5 1#5 12#12
  ∧ decodeWord 0xffdff06f#32 = .jal 0#5 0x1ffffc#21
  ∧ decodeWord 0x008000ef#32 = .jal 1#5 8#21
  ∧ decodeWord 0x00b50533#32 = .add 10#5 10#5 11#5
  ∧ decodeWord 0xfe029ce3#32 = .bne 5#5 0#5 0x1ff8#13
  ∧ decodeWord 0x02155593#32 = .srli 11#5 10#5 33#6
  ∧ decodeWord 0x00150583#32 = .lb 11#5 10#5 1#12
  ∧ decodeWord 0x02b50633#32 = .mul 12#5 10#5 11#5
  ∧ decodeWord 0x00100073#32 = .ebreak
  ∧ decodeWord 0x00000000#32 = .inv 0#32

/-- R49 to R55: the operand tuple of each type tag, the immediates bit by bit, and the examples of those rules. -/
def Obligations.OperandTupleOfEachTypeTag : Prop :=
  ∀ (w : Word) (s : State),
    ((decodeOperands w s .I).rd = w.extractLsb' 7 5
      ∧ (decodeOperands w s .I).src1 = s.readReg (w.extractLsb' 15 5) ∧ (decodeOperands w s .I).src2 = 0#32
      ∧ ∀ k, k < 32 → (decodeOperands w s .I).imm.getLsbD k = w.getLsbD (if k < 12 then 20 + k else 31))
    ∧ ((decodeOperands w s .U).rd = w.extractLsb' 7 5 ∧ (decodeOperands w s .U).src1 = 0#32
      ∧ (decodeOperands w s .U).src2 = 0#32
      ∧ ∀ k, k < 32 → (decodeOperands w s .U).imm.getLsbD k = if k < 12 then false else w.getLsbD k)
    ∧ ((decodeOperands w s .S).rd = 0#5
      ∧ (decodeOperands w s .S).src1 = s.readReg (w.extractLsb' 15 5)
      ∧ (decodeOperands w s .S).src2 = s.readReg (w.extractLsb' 20 5)
      ∧ ∀ k, k < 32 → (decodeOperands w s .S).imm.getLsbD k
          = w.getLsbD (if k < 5 then 7 + k else if k < 12 then 20 + k else 31))
    ∧ ((decodeOperands w s .J).rd = w.extractLsb' 7 5 ∧ (decodeOperands w s .J).src1 = 0#32
      ∧ (decodeOperands w s .J).src2 = 0#32
      ∧ ∀ k, k < 32 → (decodeOperands w s .J).imm.getLsbD k
          = if k = 0 then false
            else w.getLsbD (if k < 11 then 20 + k else if k = 11 then 20 else if k < 20 then k else 31))
    ∧ ((decodeOperands w s .R).rd = w.extractLsb' 7 5
      ∧ (decodeOperands w s .R).src1 = s.readReg (w.extractLsb' 15 5)
      ∧ (decodeOperands w s .R).src2 = s.readReg (w.extractLsb' 20 5) ∧ (decodeOperands w s .R).imm = 0#32)
    ∧ ((decodeOperands w s .B).rd = 0#5
      ∧ (decodeOperands w s .B).src1 = s.readReg (w.extractLsb' 15 5)
      ∧ (decodeOperands w s .B).src2 = s.readReg (w.extractLsb' 20 5)
      ∧ ∀ k, k < 32 → (decodeOperands w s .B).imm.getLsbD k
          = if k = 0 then false
            else w.getLsbD (if k < 5 then 7 + k else if k < 11 then 20 + k else if k = 11 then 7 else 31))
    ∧ decodeOperands w s .N = { rd := 0#5, src1 := 0#32, src2 := 0#32, imm := 0#32 }
    ∧ decodeOperands 0xfff10093#32 s .I = { rd := 1#5, src1 := s.readReg 2#5, src2 := 0#32, imm := 0xffffffff#32 }
    ∧ decodeOperands 0x800012b7#32 s .U = { rd := 5#5, src1 := 0#32, src2 := 0#32, imm := 0x80001000#32 }
    ∧ decodeOperands 0x00112623#32 s .S
        = { rd := 0#5, src1 := s.readReg 2#5, src2 := s.readReg 1#5, imm := 12#32 }
    ∧ decodeOperands 0xffdff06f#32 s .J = { rd := 0#5, src1 := 0#32, src2 := 0#32, imm := 0xfffffffc#32 }
    ∧ decodeOperands 0x00b50533#32 s .R
        = { rd := 10#5, src1 := s.readReg 10#5, src2 := s.readReg 11#5, imm := 0#32 }
    ∧ decodeOperands 0xfe029ce3#32 s .B
        = { rd := 0#5, src1 := s.readReg 5#5, src2 := 0#32, imm := 0xfffffff8#32 }

/-! ## The step -/

/-- R71 to R77 and R182 (d): where the bytes at `pc` encode a well-formed instruction, a step of a run fetches it,
runs it, counts the step and makes the scan (`afterInstruction`), and the program's own state is what `exec` left. This is
over the default table; any other is the statement AnyTableRunsItsFirstMatchingAction. The word of `inv` must not be one
of `HALT_PATTERNS` (R81). -/
def Obligations.StepRunsTheDecodedInstruction : Prop :=
  ∀ (s : State) (i : Instr), s.cfg.patternTable = defaultTable → RunnableState s → wellFormed i = true →
    s.admitsAccess s.pc .four = true →
    Memory.byte s.mem s.pc = (encode i).extractLsb' 0 8 →
    Memory.byte s.mem (s.pc + 1#32) = (encode i).extractLsb' 8 8 →
    Memory.byte s.mem (s.pc + 2#32) = (encode i).extractLsb' 16 8 →
    Memory.byte s.mem (s.pc + 3#32) = (encode i).extractLsb' 24 8 →
    (∀ w, i = .inv w → ∀ p ∈ s.cfg.haltPatterns, w &&& p.mask ≠ p.value) →
    ∃ u, exec i (fetched s.clearOutputs) = .next u ∧ step s = .next (afterInstruction u)
      ∧ (afterInstruction u).regs = u.regs ∧ (afterInstruction u).pc = u.pc ∧ (afterInstruction u).mem = u.mem

/-- R62, R71 to R75, for every pattern table: a step runs the action of the first entry that matches, on the tuple its
tag decodes; and an entry that gives an action the action's own tag runs the instruction `exec` runs. Three clauses are
the model's readings, all of log 21: the halt entries stand before the catch-all at the end of any table (DEDUCED: R81
says it of entries 46 and 47 of the default one); a table without a catch-all gets the halt entries and `inv` at its end
(DESIGN CHOICE, one of the two ways R63 gives); and an action under a tag that leaves a field at zero reads that zero
(DEDUCED: R75 forbids the read). -/
def Obligations.AnyTableRunsItsFirstMatchingAction : Prop :=
  (∀ (cfg : Config) (before : List Entry) (last : Entry), cfg.patternTable = before ++ [last] → last.mask = 0#32 →
      last.value = 0#32 → cfg.table = before ++ cfg.haltPatterns.map haltEntry ++ [last])
  ∧ (∀ cfg : Config, (∀ before last, cfg.patternTable = before ++ [last] → ¬(last.mask = 0#32 ∧ last.value = 0#32)) →
      cfg.table = cfg.patternTable ++ cfg.haltPatterns.map haltEntry
        ++ [{ mask := 0#32, value := 0#32, tag := .N, action := .inv }])
  ∧ (∀ (s : State) (w : Word), RunnableState s → s.fetchWord = some w →
      ∃ before e after u, s.cfg.table = before ++ e :: after ∧ w &&& e.mask = e.value
        ∧ (∀ d ∈ before, w &&& d.mask ≠ d.value)
        ∧ runAction e.action (decodeOperands w s e.tag) (fetched s.clearOutputs) = .next u
        ∧ step s = .next (afterInstruction u))
  ∧ ∀ (e : Entry) (w : Word) (i : Instr) (s : State), e.tag = e.action.tag → e.action.instr w = some i →
      runAction e.action (decodeOperands w s e.tag) s = exec i s

/-- R81: on the default table the entries of `HALT_PATTERNS` stand after entry 46 and before entry 47, and their action
is the halt. -/
def Obligations.HaltPatternsStandBeforeTheCatchAll : Prop :=
  (∀ cfg : Config, cfg.patternTable = defaultTable →
    cfg.table = realEntries ++ cfg.haltPatterns.map (fun p => ⟨p.mask, p.value, .N, .halt⟩)
      ++ [{ mask := 0#32, value := 0#32, tag := .N, action := .inv }]
    ∧ (∀ w : Word, (∃ e ∈ realEntries, w &&& e.mask = e.value) → dispatchWord cfg.table w = .instr (decodeWord w))
    ∧ ∀ w : Word, (∀ e ∈ realEntries, w &&& e.mask ≠ e.value) →
      dispatchWord cfg.table w
        = if ∃ p ∈ cfg.haltPatterns, w &&& p.mask = p.value then .action .halt .N w else .instr (.inv w))
  ∧ ∀ (s : State) (w : Word), s.cfg.patternTable = defaultTable → RunnableState s → s.fetchWord = some w →
      (∀ e ∈ realEntries, w &&& e.mask ≠ e.value) → (∃ p ∈ s.cfg.haltPatterns, w &&& p.mask = p.value) →
      ∃ u, step s = .next (afterInstruction u) ∧ u.runState = .halted ∧ u.haltRet = s.readReg 10#5
        ∧ u.trapPc = s.pc ∧ u.pc = s.pc + 4#32 ∧ RegistersUnchanged s u ∧ MemoryUnchanged s u

/-- R38, R120, R199: an access outside the admitted address set is `Fatal(MemFault)`: the fetch before any match, and a
load or a store with no register written. The model's choices, and not the spec's: `pc` left where it is after a faulted
fetch (log 10), no byte written by a store that is admitted in part (log 11), `pc` 4 further after a faulted load or
store (log 9), `halt_ret` kept as it stands on entering FATAL, where R19 leaves it unspecified (log 16), and the call that
faults in the list of port calls (log 17). -/
def Obligations.AccessesOutsideTheAdmittedSetAreFatal : Prop :=
  (∀ s : State, RunnableState s → s.admitsAccess s.pc .four = false →
    ∃ t, step s = .next t ∧ t.runState = .fatal ∧ t.fatalReason = .memFault ∧ t.pc = s.pc ∧ RegistersUnchanged s t
      ∧ MemoryUnchanged s t ∧ t.slots = s.slots ∧ t.activeList = s.activeList ∧ t.port = [.read s.pc .four])
  ∧ ∀ (rd rs1 rs2 : RegIdx) (imm : BitVec 12) (s : State),
    (s.admitsAccess (operandsI rd rs1 imm s).address .one = false →
      CompletesFaulting (.lb rd rs1 imm) s (.read (operandsI rd rs1 imm s).address .one)
      ∧ CompletesFaulting (.lbu rd rs1 imm) s (.read (operandsI rd rs1 imm s).address .one))
    ∧ (s.admitsAccess (operandsI rd rs1 imm s).address .two = false →
      CompletesFaulting (.lh rd rs1 imm) s (.read (operandsI rd rs1 imm s).address .two)
      ∧ CompletesFaulting (.lhu rd rs1 imm) s (.read (operandsI rd rs1 imm s).address .two))
    ∧ (s.admitsAccess (operandsI rd rs1 imm s).address .four = false →
      CompletesFaulting (.lw rd rs1 imm) s (.read (operandsI rd rs1 imm s).address .four))
    ∧ (s.admitsAccess (operandsS rs1 rs2 imm s).address .one = false →
      CompletesFaulting (.sb rs1 rs2 imm) s
        (.write (operandsS rs1 rs2 imm s).address .one (s.readReg rs2 &&& 0xff#32)))
    ∧ (s.admitsAccess (operandsS rs1 rs2 imm s).address .two = false →
      CompletesFaulting (.sh rs1 rs2 imm) s
        (.write (operandsS rs1 rs2 imm s).address .two (s.readReg rs2 &&& 0xffff#32)))
    ∧ (s.admitsAccess (operandsS rs1 rs2 imm s).address .four = false →
      CompletesFaulting (.sw rs1 rs2 imm) s (.write (operandsS rs1 rs2 imm s).address .four (s.readReg rs2)))

/-- R183 to R189: every way the block stops is a run state, so the machine always has a next state. -/
def Obligations.EveryTransitionHasANextState : Prop := ∀ s : State, ∃ t, step s = .next t

/-- R195, R21, R32, R182: the invariant of `Sys2Proof/Safety.lean` is kept by every transition of every state. -/
def Obligations.PoolAndMemoryStayConsistent : Prop := ∀ s t : State, Inv s → step s = .next t → Inv t

/-- R26, R220: the state after reset meets that invariant. -/
def Obligations.PoolAndMemoryAreConsistentAtReset : Prop := Inv State.reset

/-- R4, R17, R25: the parameters, the pattern table among them, are constant. -/
def Obligations.ParametersNeverChange : Prop := ∀ s t : State, step s = .next t → t.cfg = s.cfg

/-! ## The integer instructions -/

/-- R94, R95. -/
def Obligations.UpperImmediateResults : Prop :=
  TableRow 1 .U "??????? ????? ????? ??? ????? 01101 11" 0x0000007f#32 0x00000037#32
    (fun w => .lui (w.extractLsb' 7 5) (w.extractLsb' 12 20))
  ∧ TableRow 2 .U "??????? ????? ????? ??? ????? 00101 11" 0x0000007f#32 0x00000017#32
    (fun w => .auipc (w.extractLsb' 7 5) (w.extractLsb' 12 20))
  ∧ ∀ (rd : RegIdx) (imm20 : BitVec 20) (s : State),
    CompletesWriting (.lui rd imm20) s rd (BitVec.ofNat 32 (4096 * imm20.toNat)) (s.pc + 4#32) []
    ∧ CompletesWriting (.auipc rd imm20) s rd (BitVec.ofNat 32 (s.pc.toNat + 4096 * imm20.toNat)) (s.pc + 4#32) []

/-- R85, R86, R87. -/
def Obligations.AddAndCompareImmediateResults : Prop :=
  TableRowI 3 "??????? ????? ????? 000 ????? 00100 11" 0x00000013#32 .addi
  ∧ TableRowI 4 "??????? ????? ????? 010 ????? 00100 11" 0x00002013#32 .slti
  ∧ TableRowI 5 "??????? ????? ????? 011 ????? 00100 11" 0x00003013#32 .sltiu
  ∧ ∀ (rd rs1 : RegIdx) (imm : BitVec 12) (s : State),
    CompletesWriting (.addi rd rs1 imm) s rd (BitVec.ofInt 32 ((s.readReg rs1).toInt + imm.toInt)) (s.pc + 4#32) []
    ∧ CompletesWriting (.slti rd rs1 imm) s rd (oneIf ((s.readReg rs1).toInt < imm.toInt)) (s.pc + 4#32) []
    ∧ CompletesWriting (.sltiu rd rs1 imm) s rd
        (oneIf (((s.readReg rs1).toNat : Int) < imm.toInt % 2 ^ 32)) (s.pc + 4#32) []

/-- R88, R89, R90: the immediate's bits above 11 are copies of its bit 11. -/
def Obligations.LogicalImmediateResults : Prop :=
  TableRowI 6 "??????? ????? ????? 100 ????? 00100 11" 0x00004013#32 .xori
  ∧ TableRowI 7 "??????? ????? ????? 110 ????? 00100 11" 0x00006013#32 .ori
  ∧ TableRowI 8 "??????? ????? ????? 111 ????? 00100 11" 0x00007013#32 .andi
  ∧ ∀ (rd rs1 : RegIdx) (imm : BitVec 12) (s : State),
    (∃ v : Word, CompletesWriting (.xori rd rs1 imm) s rd v (s.pc + 4#32) []
      ∧ ∀ k, k < 32 → v.getLsbD k = ((s.readReg rs1).getLsbD k).xor (imm.getLsbD (min k 11)))
    ∧ (∃ v : Word, CompletesWriting (.ori rd rs1 imm) s rd v (s.pc + 4#32) []
      ∧ ∀ k, k < 32 → v.getLsbD k = ((s.readReg rs1).getLsbD k || imm.getLsbD (min k 11)))
    ∧ (∃ v : Word, CompletesWriting (.andi rd rs1 imm) s rd v (s.pc + 4#32) []
      ∧ ∀ k, k < 32 → v.getLsbD k = ((s.readReg rs1).getLsbD k && imm.getLsbD (min k 11)))

/-- R91, R92, R93: the shift by 0 to 31 where the mode bit is clear, and the rejection where it is set. -/
def Obligations.ShiftImmediateResults : Prop :=
  TableRowShift 9 "000000? ????? ????? 001 ????? 00100 11" 0x00001013#32 .slli
  ∧ TableRowShift 10 "000000? ????? ????? 101 ????? 00100 11" 0x00005013#32 .srli
  ∧ TableRowShift 11 "010000? ????? ????? 101 ????? 00100 11" 0x40005013#32 .srai
  ∧ ∀ (rd rs1 : RegIdx) (imm6 : BitVec 6) (s : State),
    (imm6.toNat < 32 →
      CompletesWriting (.slli rd rs1 imm6) s rd
          (BitVec.ofNat 32 ((s.readReg rs1).toNat * 2 ^ imm6.toNat)) (s.pc + 4#32) []
      ∧ CompletesWriting (.srli rd rs1 imm6) s rd
          (BitVec.ofNat 32 ((s.readReg rs1).toNat / 2 ^ imm6.toNat)) (s.pc + 4#32) []
      ∧ CompletesWriting (.srai rd rs1 imm6) s rd
          (BitVec.ofInt 32 ((s.readReg rs1).toInt / 2 ^ imm6.toNat)) (s.pc + 4#32) [])
    ∧ (32 ≤ imm6.toNat →
      CompletesRejected (.slli rd rs1 imm6) s ∧ CompletesRejected (.srli rd rs1 imm6) s
      ∧ CompletesRejected (.srai rd rs1 imm6) s)

/-- R96, R65: a word that matches entry 9, 10 or 11 and has `inst[25] = 1` is rejected, under either policy. -/
def Obligations.ShiftImmediateWithModeBitIsRejected : Prop :=
  ∀ (w : Word) (s : State),
    (w &&& 0xfc00707f#32 = 0x00001013#32 ∨ w &&& 0xfc00707f#32 = 0x00005013#32
      ∨ w &&& 0xfc00707f#32 = 0x40005013#32) →
    w.getLsbD 25 = true → CompletesRejected (decodeWord w) s

/-- R100, R101, R103, R104. -/
def Obligations.RegisterArithmeticResults : Prop :=
  TableRowR 12 "0000000 ????? ????? 000 ????? 01100 11" 0x00000033#32 .add
  ∧ TableRowR 13 "0100000 ????? ????? 000 ????? 01100 11" 0x40000033#32 .sub
  ∧ TableRowR 15 "0000000 ????? ????? 010 ????? 01100 11" 0x00002033#32 .slt
  ∧ TableRowR 16 "0000000 ????? ????? 011 ????? 01100 11" 0x00003033#32 .sltu
  ∧ ∀ (rd rs1 rs2 : RegIdx) (s : State),
    CompletesWriting (.add rd rs1 rs2) s rd
        (BitVec.ofNat 32 ((s.readReg rs1).toNat + (s.readReg rs2).toNat)) (s.pc + 4#32) []
    ∧ CompletesWriting (.sub rd rs1 rs2) s rd
        (BitVec.ofInt 32 ((s.readReg rs1).toInt - (s.readReg rs2).toInt)) (s.pc + 4#32) []
    ∧ CompletesWriting (.slt rd rs1 rs2) s rd
        (oneIf ((s.readReg rs1).toInt < (s.readReg rs2).toInt)) (s.pc + 4#32) []
    ∧ CompletesWriting (.sltu rd rs1 rs2) s rd
        (oneIf ((s.readReg rs1).toNat < (s.readReg rs2).toNat)) (s.pc + 4#32) []

/-- R105, R108, R109. -/
def Obligations.RegisterLogicResults : Prop :=
  TableRowR 17 "0000000 ????? ????? 100 ????? 01100 11" 0x00004033#32 .xor
  ∧ TableRowR 20 "0000000 ????? ????? 110 ????? 01100 11" 0x00006033#32 .or
  ∧ TableRowR 21 "0000000 ????? ????? 111 ????? 01100 11" 0x00007033#32 .and
  ∧ ∀ (rd rs1 rs2 : RegIdx) (s : State),
    (∃ v : Word, CompletesWriting (.xor rd rs1 rs2) s rd v (s.pc + 4#32) []
      ∧ ∀ k, k < 32 → v.getLsbD k = ((s.readReg rs1).getLsbD k).xor ((s.readReg rs2).getLsbD k))
    ∧ (∃ v : Word, CompletesWriting (.or rd rs1 rs2) s rd v (s.pc + 4#32) []
      ∧ ∀ k, k < 32 → v.getLsbD k = ((s.readReg rs1).getLsbD k || (s.readReg rs2).getLsbD k))
    ∧ (∃ v : Word, CompletesWriting (.and rd rs1 rs2) s rd v (s.pc + 4#32) []
      ∧ ∀ k, k < 32 → v.getLsbD k = ((s.readReg rs1).getLsbD k && (s.readReg rs2).getLsbD k))

/-- R102, R106, R107: the amount is the low five bits of the second operand. -/
def Obligations.RegisterShiftResults : Prop :=
  TableRowR 14 "0000000 ????? ????? 001 ????? 01100 11" 0x00001033#32 .sll
  ∧ TableRowR 18 "0000000 ????? ????? 101 ????? 01100 11" 0x00005033#32 .srl
  ∧ TableRowR 19 "0100000 ????? ????? 101 ????? 01100 11" 0x40005033#32 .sra
  ∧ ∀ (rd rs1 rs2 : RegIdx) (s : State),
    CompletesWriting (.sll rd rs1 rs2) s rd
        (BitVec.ofNat 32 ((s.readReg rs1).toNat * 2 ^ ((s.readReg rs2).toNat % 32))) (s.pc + 4#32) []
    ∧ CompletesWriting (.srl rd rs1 rs2) s rd
        (BitVec.ofNat 32 ((s.readReg rs1).toNat / 2 ^ ((s.readReg rs2).toNat % 32))) (s.pc + 4#32) []
    ∧ CompletesWriting (.sra rd rs1 rs2) s rd
        (BitVec.ofInt 32 ((s.readReg rs1).toInt / 2 ^ ((s.readReg rs2).toNat % 32))) (s.pc + 4#32) []

/-! ## Control transfer -/

/-- R110, R111: the link is the address after the jump; a `jalr` target is even and uses the old `x[rs1]`. -/
def Obligations.JumpResults : Prop :=
  TableRow 22 .J "??????? ????? ????? ??? ????? 11011 11" 0x0000007f#32 0x0000006f#32
    (fun w => .jal (w.extractLsb' 7 5)
      (w.extractLsb' 31 1 ++ w.extractLsb' 12 8 ++ w.extractLsb' 20 1 ++ w.extractLsb' 21 10 ++ 0#1))
  ∧ TableRowI 23 "??????? ????? ????? 000 ????? 11001 11" 0x00000067#32 .jalr
  ∧ ∀ (rd rs1 : RegIdx) (offset : BitVec 21) (imm : BitVec 12) (s : State),
    CompletesWriting (.jal rd offset) s rd (BitVec.ofNat 32 (s.pc.toNat + 4))
        (BitVec.ofInt 32 ((s.pc.toNat : Int) + offset.toInt)) []
    ∧ CompletesWriting (.jalr rd rs1 imm) s rd (BitVec.ofNat 32 (s.pc.toNat + 4))
        (BitVec.ofInt 32 (2 * (((s.readReg rs1).toInt + imm.toInt) / 2))) []

/-- R112 to R117: the target is relative to the branch itself; not taken, `pc` is 4 further; no register is written. -/
def Obligations.BranchResults : Prop :=
  TableRowB 24 "??????? ????? ????? 000 ????? 11000 11" 0x00000063#32 .beq
  ∧ TableRowB 25 "??????? ????? ????? 001 ????? 11000 11" 0x00001063#32 .bne
  ∧ TableRowB 26 "??????? ????? ????? 100 ????? 11000 11" 0x00004063#32 .blt
  ∧ TableRowB 27 "??????? ????? ????? 101 ????? 11000 11" 0x00005063#32 .bge
  ∧ TableRowB 28 "??????? ????? ????? 110 ????? 11000 11" 0x00006063#32 .bltu
  ∧ TableRowB 29 "??????? ????? ????? 111 ????? 11000 11" 0x00007063#32 .bgeu
  ∧ ∀ (rs1 rs2 : RegIdx) (offset : BitVec 13) (s : State),
    CompletesMoving (.beq rs1 rs2 offset) s
      (if s.readReg rs1 = s.readReg rs2 then BitVec.ofInt 32 ((s.pc.toNat : Int) + offset.toInt) else s.pc + 4#32)
    ∧ CompletesMoving (.bne rs1 rs2 offset) s
      (if s.readReg rs1 ≠ s.readReg rs2 then BitVec.ofInt 32 ((s.pc.toNat : Int) + offset.toInt) else s.pc + 4#32)
    ∧ CompletesMoving (.blt rs1 rs2 offset) s
      (if (s.readReg rs1).toInt < (s.readReg rs2).toInt then BitVec.ofInt 32 ((s.pc.toNat : Int) + offset.toInt)
        else s.pc + 4#32)
    ∧ CompletesMoving (.bge rs1 rs2 offset) s
      (if (s.readReg rs2).toInt ≤ (s.readReg rs1).toInt then BitVec.ofInt 32 ((s.pc.toNat : Int) + offset.toInt)
        else s.pc + 4#32)
    ∧ CompletesMoving (.bltu rs1 rs2 offset) s
      (if (s.readReg rs1).toNat < (s.readReg rs2).toNat then BitVec.ofInt 32 ((s.pc.toNat : Int) + offset.toInt)
        else s.pc + 4#32)
    ∧ CompletesMoving (.bgeu rs1 rs2 offset) s
      (if (s.readReg rs2).toNat ≤ (s.readReg rs1).toNat then BitVec.ofInt 32 ((s.pc.toNat : Int) + offset.toInt)
        else s.pc + 4#32)

/-! ## Loads and stores -/

/-- R120 to R125: any alignment, the byte at the lowest address least significant; an access the memory does not admit
is a memory fault (R38). -/
def Obligations.LoadResults : Prop :=
  TableRowI 30 "??????? ????? ????? 000 ????? 00000 11" 0x00000003#32 .lb
  ∧ TableRowI 31 "??????? ????? ????? 001 ????? 00000 11" 0x00001003#32 .lh
  ∧ TableRowI 32 "??????? ????? ????? 010 ????? 00000 11" 0x00002003#32 .lw
  ∧ TableRowI 33 "??????? ????? ????? 100 ????? 00000 11" 0x00004003#32 .lbu
  ∧ TableRowI 34 "??????? ????? ????? 101 ????? 00000 11" 0x00005003#32 .lhu
  ∧ ∀ (rd rs1 : RegIdx) (imm : BitVec 12) (s : State) (a : Word),
    a = BitVec.ofInt 32 ((s.readReg rs1).toInt + imm.toInt) →
    (s.admitsAccess a .one = true →
      CompletesWriting (.lb rd rs1 imm) s rd (BitVec.ofInt 32 (Memory.byte s.mem a).toInt)
          (s.pc + 4#32) [.read a .one]
      ∧ CompletesWriting (.lbu rd rs1 imm) s rd (BitVec.ofNat 32 (Memory.byte s.mem a).toNat)
          (s.pc + 4#32) [.read a .one])
    ∧ (s.admitsAccess a .one = false → RaisesMemFault (.lb rd rs1 imm) s ∧ RaisesMemFault (.lbu rd rs1 imm) s)
    ∧ (s.admitsAccess a .two = true →
      CompletesWriting (.lh rd rs1 imm) s rd
          (BitVec.ofInt 32 ((Memory.byte s.mem (a + 1#32)).toInt * 256 + (Memory.byte s.mem a).toNat))
          (s.pc + 4#32) [.read a .two]
      ∧ CompletesWriting (.lhu rd rs1 imm) s rd
          (BitVec.ofNat 32 ((Memory.byte s.mem (a + 1#32)).toNat * 256 + (Memory.byte s.mem a).toNat))
          (s.pc + 4#32) [.read a .two])
    ∧ (s.admitsAccess a .two = false → RaisesMemFault (.lh rd rs1 imm) s ∧ RaisesMemFault (.lhu rd rs1 imm) s)
    ∧ (s.admitsAccess a .four = true →
      CompletesWriting (.lw rd rs1 imm) s rd
          (BitVec.ofNat 32 ((Memory.byte s.mem (a + 3#32)).toNat * 2 ^ 24
            + (Memory.byte s.mem (a + 2#32)).toNat * 2 ^ 16 + (Memory.byte s.mem (a + 1#32)).toNat * 2 ^ 8
            + (Memory.byte s.mem a).toNat))
          (s.pc + 4#32) [.read a .four])
    ∧ (s.admitsAccess a .four = false → RaisesMemFault (.lw rd rs1 imm) s)

/-- R120, R126 to R128: the address is the one the meaning computes, the bytes of the access take the low bytes of
`x[rs2]`, and every other byte is as before; an access the memory does not admit is a memory fault (R38). -/
def Obligations.StoreResults : Prop :=
  TableRowS 35 "??????? ????? ????? 000 ????? 01000 11" 0x00000023#32 .sb
  ∧ TableRowS 36 "??????? ????? ????? 001 ????? 01000 11" 0x00001023#32 .sh
  ∧ TableRowS 37 "??????? ????? ????? 010 ????? 01000 11" 0x00002023#32 .sw
  ∧ ∀ (rs1 rs2 : RegIdx) (imm : BitVec 12) (s : State) (a : Word), Memory.wf s.mem →
    a = (operandsS rs1 rs2 imm s).address →
    a = BitVec.ofInt 32 ((s.readReg rs1).toInt + imm.toInt)
    ∧ (s.admitsAccess a .one = true →
        CompletesStoring (.sb rs1 rs2 imm) s a .one (s.readReg rs2) (s.readReg rs2 &&& 0xff#32))
    ∧ (s.admitsAccess a .one = false → RaisesMemFault (.sb rs1 rs2 imm) s)
    ∧ (s.admitsAccess a .two = true →
        CompletesStoring (.sh rs1 rs2 imm) s a .two (s.readReg rs2) (s.readReg rs2 &&& 0xffff#32))
    ∧ (s.admitsAccess a .two = false → RaisesMemFault (.sh rs1 rs2 imm) s)
    ∧ (s.admitsAccess a .four = true →
        CompletesStoring (.sw rs1 rs2 imm) s a .four (s.readReg rs2) (s.readReg rs2))
    ∧ (s.admitsAccess a .four = false → RaisesMemFault (.sw rs1 rs2 imm) s)

/-- R31, R32, R33: the bytes of a write and of a read, and the mixed-width example of R33 at every address. -/
def Obligations.MemoryIsLittleEndian : Prop :=
  ∀ (m : Memory) (a v x : Word), Memory.wf m →
    (∀ w : Width, Memory.wf (Memory.write m a v w)
      ∧ (∀ k b, (w.addrs a)[k]? = some b → Memory.byte (Memory.write m a v w) b = v.extractLsb' (8 * k) 8)
      ∧ (x ∉ w.addrs a → Memory.byte (Memory.write m a v w) x = Memory.byte m x))
    ∧ Memory.read m a .one = BitVec.ofNat 32 (Memory.byte m a).toNat
    ∧ Memory.read m a .two
        = BitVec.ofNat 32 ((Memory.byte m a).toNat + 2 ^ 8 * (Memory.byte m (a + 1#32)).toNat)
    ∧ Memory.read m a .four
        = BitVec.ofNat 32 ((Memory.byte m a).toNat + 2 ^ 8 * (Memory.byte m (a + 1#32)).toNat
            + 2 ^ 16 * (Memory.byte m (a + 2#32)).toNat + 2 ^ 24 * (Memory.byte m (a + 3#32)).toNat)
    ∧ Memory.read (Memory.write m a 0xdeadbeef#32 .four) a .one = 0xef#32
    ∧ Memory.read (Memory.write m a 0xdeadbeef#32 .four) (a + 1#32) .one = 0xbe#32
    ∧ Memory.read (Memory.write m a 0xdeadbeef#32 .four) a .two = 0xbeef#32
    ∧ Memory.read (Memory.write m a 0xdeadbeef#32 .four) (a + 2#32) .two = 0xdead#32

/-- R42, R227: the word a `sw` stores is what a later fetch at that address gives, with nothing in between. -/
def Obligations.StoredWordIsWhatTheNextFetchGives : Prop :=
  ∀ (rs1 rs2 : RegIdx) (imm : BitVec 12) (s : State), Memory.wf s.mem →
    s.admitsAccess (operandsS rs1 rs2 imm s).address .four = true →
    ∃ t, exec (.sw rs1 rs2 imm) s = .next t
      ∧ (t.setPc (operandsS rs1 rs2 imm s).address).fetchWord = some (s.readReg rs2)
      ∧ ((operandsS rs1 rs2 imm s).address = s.pc + 4#32 → t.fetchWord = some (s.readReg rs2))

/-! ## Multiply and divide -/

/-- R131 to R134: bits of the full product, each operand read as the instruction says. -/
def Obligations.MultiplyResults : Prop :=
  TableRowR 38 "0000001 ????? ????? 000 ????? 01100 11" 0x02000033#32 .mul
  ∧ TableRowR 39 "0000001 ????? ????? 001 ????? 01100 11" 0x02001033#32 .mulh
  ∧ TableRowR 40 "0000001 ????? ????? 010 ????? 01100 11" 0x02002033#32 .mulhsu
  ∧ TableRowR 41 "0000001 ????? ????? 011 ????? 01100 11" 0x02003033#32 .mulhu
  ∧ ∀ (rd rs1 rs2 : RegIdx) (s : State),
    CompletesWriting (.mul rd rs1 rs2) s rd
        (BitVec.ofInt 32 ((s.readReg rs1).toInt * (s.readReg rs2).toInt)) (s.pc + 4#32) []
    ∧ CompletesWriting (.mulh rd rs1 rs2) s rd
        (BitVec.ofInt 32 ((s.readReg rs1).toInt * (s.readReg rs2).toInt / 2 ^ 32)) (s.pc + 4#32) []
    ∧ CompletesWriting (.mulhsu rd rs1 rs2) s rd
        (BitVec.ofInt 32 ((s.readReg rs1).toInt * ((s.readReg rs2).toNat : Int) / 2 ^ 32)) (s.pc + 4#32) []
    ∧ CompletesWriting (.mulhu rd rs1 rs2) s rd
        (BitVec.ofNat 32 ((s.readReg rs1).toNat * (s.readReg rs2).toNat / 2 ^ 32)) (s.pc + 4#32) []

/-- R135 to R138: the quotient truncates toward zero, the remainder is the dividend less divisor times quotient, and the
division by zero and the signed overflow have the values R130 gives. -/
def Obligations.DivideResults : Prop :=
  TableRowR 42 "0000001 ????? ????? 100 ????? 01100 11" 0x02004033#32 .div
  ∧ TableRowR 43 "0000001 ????? ????? 101 ????? 01100 11" 0x02005033#32 .divu
  ∧ TableRowR 44 "0000001 ????? ????? 110 ????? 01100 11" 0x02006033#32 .rem
  ∧ TableRowR 45 "0000001 ????? ????? 111 ????? 01100 11" 0x02007033#32 .remu
  ∧ ∀ (rd rs1 rs2 : RegIdx) (s : State) (a b : Word), a = s.readReg rs1 → b = s.readReg rs2 →
    CompletesWriting (.div rd rs1 rs2) s rd
        (if b = 0#32 then 0xffffffff#32 else if a = 0x80000000#32 ∧ b = 0xffffffff#32 then 0x80000000#32
          else BitVec.ofInt 32 (a.toInt.sign * b.toInt.sign * (a.toInt.natAbs / b.toInt.natAbs : Nat)))
        (s.pc + 4#32) []
    ∧ CompletesWriting (.divu rd rs1 rs2) s rd
        (if b = 0#32 then 0xffffffff#32 else BitVec.ofNat 32 (a.toNat / b.toNat)) (s.pc + 4#32) []
    ∧ CompletesWriting (.rem rd rs1 rs2) s rd
        (if b = 0#32 then a else if a = 0x80000000#32 ∧ b = 0xffffffff#32 then 0#32
          else BitVec.ofInt 32 (a.toInt.sign * (a.toInt.natAbs % b.toInt.natAbs : Nat)))
        (s.pc + 4#32) []
    ∧ CompletesWriting (.remu rd rs1 rs2) s rd
        (if b = 0#32 then a else BitVec.ofNat 32 (a.toNat % b.toNat)) (s.pc + 4#32) []

/-- R130, over the operations the meanings of the eight instructions call: the product words, the identity of quotient
and remainder, the size and the sign of the remainder, the division by zero and the signed overflow. -/
def Obligations.MultiplyAndDivideLaws : Prop :=
  ∀ a b : Word,
    (mulHighSigned a b ++ mulLow a b).toInt = a.toInt * b.toInt
    ∧ (mulHighSignedUnsigned a b ++ mulLow a b).toInt = a.toInt * (b.toNat : Int)
    ∧ (mulHighUnsigned a b ++ mulLow a b).toNat = a.toNat * b.toNat
    ∧ (b ≠ 0#32 → ¬(a = 0x80000000#32 ∧ b = 0xffffffff#32) →
        a.toInt = b.toInt * (divSigned a b).toInt + (remSigned a b).toInt
        ∧ (remSigned a b).toInt.natAbs < b.toInt.natAbs
        ∧ (0 ≤ a.toInt → 0 ≤ (remSigned a b).toInt) ∧ (a.toInt ≤ 0 → (remSigned a b).toInt ≤ 0))
    ∧ (b ≠ 0#32 → a.toNat = b.toNat * (divUnsigned a b).toNat + (remUnsigned a b).toNat
        ∧ (remUnsigned a b).toNat < b.toNat)
    ∧ (divSigned a 0#32).toInt = -1 ∧ (divUnsigned a 0#32).toNat = 2 ^ 32 - 1
    ∧ remSigned a 0#32 = a ∧ remUnsigned a 0#32 = a
    ∧ divSigned 0x80000000#32 0xffffffff#32 = 0x80000000#32 ∧ remSigned 0x80000000#32 0xffffffff#32 = 0#32

/-! ## Traps and halts -/

/-- R140, R185. -/
def Obligations.DebugTrapRecordsTheReturnValue : Prop :=
  TableRow 46 .N "0000000 00001 00000 000 00000 11100 11" 0xffffffff#32 0x00100073#32 (fun _ => .ebreak)
  ∧ ∀ s : State, ∃ t, CompletesTrapping .ebreak s .trappedOk t ∧ t.haltRet = s.readReg 10#5

/-- R141, R184. What `halt_ret` holds after it is not stated: the spec leaves it open. -/
def Obligations.InvalidInstructionTraps : Prop :=
  (defaultDeclarations[46]?
      = some { template := "??????? ????? ????? ??? ????? ????? ??".toList, tag := .N, action := .inv }
    ∧ defaultTable[46]? = some { mask := 0#32, value := 0#32, tag := .N, action := .inv })
  ∧ (∀ w : Word, (∀ e ∈ realEntries, w &&& e.mask ≠ e.value) → decodeWord w = .inv w)
  ∧ ∀ (w : Word) (s : State), ∃ t, CompletesTrapping (.inv w) s .trappedBad t

/-- R186, R142: the halt action in its two forms, and where the command is refused. -/
def Obligations.HaltActionInBothForms : Prop :=
  (∀ s : State, ∃ t, haltAction s = .next t ∧ t.runState = .halted ∧ t.haltRet = s.readReg 10#5 ∧ t.trapPc = s.pc
    ∧ t.pc = s.pc + 4#32 ∧ RegistersUnchanged s t ∧ MemoryUnchanged s t ∧ PoolUnchanged s t)
  ∧ ∀ (s : State) (code : Word) (rest : List Input), Given s (.haltReq code) rest →
    step s = .next (if s.runState = .stopped
      then { taken s rest with runState := .halted, haltRet := code, response := some .accepted }
      else { taken s rest with response := some .refused })

/-! ## Runs and commands -/

/-- R189: the transition table. In RUNNING, `u` is the state after the step and `v` after its scan. -/
def Obligations.RunStateTransitionTable : Prop :=
  ∀ s t : State, step s = .next t →
    (s.runState ≠ .running → s.inputs = [] → t.runState = s.runState)
    ∧ (∀ c rest, Given s c rest → CommandRow s.runState t.runState c)
    ∧ (∀ addr b rest, s.runState ≠ .running → s.inputs = .memoryWrite addr b :: rest → t.runState = s.runState)
    ∧ (RunnableState s → s.fetchWord = none → t.runState = .fatal)
    ∧ ∀ u v changes, RunnableState s → AfterExecOnce s u → detectChanges (countStep u) = (changes, v) →
        (u.runState = .fatal → t.runState = .fatal)
        ∧ (u.runState ≠ .fatal → v.runState = .fatal → t.runState = .fatal)
        ∧ (u.runState = .running → v.runState ≠ .fatal → changes ≠ [] → t.runState = .stopped)
        ∧ (u.runState = .running → v.runState ≠ .fatal → changes = [] →
            t.runState = if s.progress.left = some 1 then .stopped else .running)
        ∧ (u.runState = .trappedOk ∨ u.runState = .trappedBad ∨ u.runState = .halted → v.runState ≠ .fatal →
            t.runState = u.runState)
        ∧ (u.runState = .running ∨ u.runState = .trappedOk ∨ u.runState = .trappedBad ∨ u.runState = .halted
            ∨ u.runState = .fatal)

/-- R182 (a) to (c): what a `run` command does at its entry. -/
def Obligations.RunCommandEntry : Prop :=
  ∀ (s : State) (steps : Int) (rest : List Input), Given s (.run steps) rest →
    (steps < -1 ∨ s.runState = .quit ∨ s.runState = .fatal →
      step s = .next { taken s rest with response := some .refused })
    ∧ (-1 ≤ steps → (s.runState = .trappedOk ∨ s.runState = .trappedBad ∨ s.runState = .halted) →
      step s = .next { taken s rest with response := some (.runEnded 0 []) })
    ∧ (s.runState = .stopped → steps = 0 → step s = .next { taken s rest with response := some (.runEnded 0 []) })
    ∧ (s.runState = .stopped → steps = -1 →
      step s = .next { taken s rest with runState := .running, progress := { left := none, done := 0 } })
    ∧ (s.runState = .stopped → 0 < steps →
      step s = .next
        { taken s rest with runState := .running, progress := { left := some steps.toNat, done := 0 } })

/-- R182: a run with `n` steps left is over after at most `n` further steps, and it returns the number of steps it has
executed. -/
def Obligations.RunEndsWithinItsStepCount : Prop :=
  ∀ (s : State) (n : Nat), s.runState = .running → s.progress.left = some (n + 1) →
    ∃ k t changes, 1 ≤ k ∧ k ≤ n + 1 ∧ Host.Core.run Sys2Proof.core k s = .next t ∧ t.runState ≠ .running
      ∧ t.response = some (.runEnded (s.progress.done + k) changes)

/-- R220 with the table of R26: what `reset()` leaves, whatever came before it. The values the table leaves unspecified
are not stated. -/
def Obligations.ResetCommandValues : Prop :=
  ∀ (s : State) (rest : List Input), Given s .reset rest →
    ∃ t, step s = .next t ∧ t.readReg 0#5 = 0#32 ∧ t.pc = s.cfg.resetVector ∧ t.runState = .stopped
      ∧ (∀ h, (t.slot h).expr = []) ∧ t.freeHead = some 0 ∧ t.activeHead = none
      ∧ (∀ h : SlotIdx, t.next h = if hi : h.val + 1 < 32 then some ⟨h.val + 1, hi⟩ else none)
      ∧ t.mem = s.mem ∧ t.cfg = s.cfg ∧ t.inputs = rest

/-- R187, and R181's refusal: `quit()` from every state but FATAL (a second `quit` is refused, log 20), and after it, or
in FATAL, every command but `reset()` and the queries is refused with no state change. -/
def Obligations.QuitAndTheRefusalsAfterIt : Prop :=
  ∀ (s : State) (rest : List Input),
    (Given s .quit rest → s.runState ≠ .quit → s.runState ≠ .fatal →
      step s = .next { taken s rest with runState := .quit, response := some .accepted })
    ∧ ∀ c, Given s c rest → (s.runState = .quit ∨ s.runState = .fatal) → c ≠ .reset → (∀ q, c ≠ .query q) →
      step s = .next { taken s rest with response := some .refused }

/-- R181 (7): a query answers from the state and changes nothing; a register whose value is unspecified now is not read
(R19, R26; log 14). -/
def Obligations.QueriesReadAndChangeNothing : Prop :=
  ∀ (s : State) (rest : List Input) (q : Query), Given s (.query q) rest →
    ∃ r, step s = .next { taken s rest with response := some r }
      ∧ (∀ i, q = .register i → r = .word (s.readReg i)) ∧ (q = .pc → r = .word s.pc)
      ∧ (q = .runState → r = .state s.runState)
      ∧ (q = .haltRet → r = if s.runState = .trappedOk ∨ s.runState = .halted then .word s.haltRet else .unspecified)
      ∧ (q = .trapPc → r = if s.trapPcSet = true then .word s.trapPc else .unspecified)
      ∧ (q = .fatalReason → r = if s.runState = .fatal then .reason s.fatalReason else .unspecified)
      ∧ (q = .watchpoints →
          r = .watchpoints (s.activeList.map fun h => (h, (s.slot h).expr, (s.slot h).last)))

/-- R43: the port calls of a step, in order: the fetch, the data call of the action that runs, and the reads of the scan
in active-list order. That they are listed in the state is the model's choice (log 17). Over a table other than the
default, the data call of a load or store action under a tag that leaves a field of its address at zero is made with
that zero, which is the model's reading (DEDUCED, log 21: R75 forbids the read). -/
def Obligations.PortCallsOfAStep : Prop :=
  ∀ (s u t : State) (w : Word) (e : Entry), RunnableState s → s.fetchWord = some w → firstMatch s.cfg.table w = some e →
    AfterExecOnce s u → step s = .next t →
    u.port = .read s.pc .four :: dataCalls (decodeOperands w s e.tag) e.action
    ∧ (u.runState = .fatal → t.port = u.port)
    ∧ (u.runState ≠ .fatal → (∀ h ∈ s.activeList, ∃ v, (exprValue u (u.slot h).expr).2 = .ok v) →
        t.port = u.port ++ s.activeList.flatMap fun h => (exprValue u (u.slot h).expr).1)

/-- R222, R59, R188: start-up converts every declaration of the table and every template of `HALT_PATTERNS`, in order,
and leaves the state after reset; with the default table it leaves `State.reset`, and a bad template is
`Fatal(BadTemplate)`. That the rest of a failed start-up's state is as after reset is the model's choice (log 23). -/
def Obligations.StartUpConvertsEveryTemplate : Prop :=
  ∀ (cfg : Config) (table : List TemplateEntry) (halts : List Text) (u : Unspecified) (mem : Memory),
    (∀ entries patterns, table.map TemplateEntry.convert = entries.map .ok →
      halts.map convertTemplate = patterns.map .ok →
      startUp cfg table halts u mem
        = State.resetWith { cfg with patternTable := entries, haltPatterns := patterns } u mem [] 0)
    ∧ ((∃ d ∈ table, convertTemplate d.template = .error .badTemplate)
        ∨ (∃ text ∈ halts, convertTemplate text = .error .badTemplate) →
      ∃ t, startUp cfg table halts u mem = t ∧ t.runState = .fatal ∧ t.fatalReason = .badTemplate
        ∧ t.pc = cfg.resetVector ∧ t.mem = mem ∧ t.freeList = List.finRange 32 ∧ t.activeList = [])
    ∧ startUp Config.default defaultDeclarations [] Unspecified.zero [] = State.reset

/-! ## The watchpoint unit -/

/-- R190: thirty-two allocations from the state after reset give the handles 0 to 31 and the active list 31 to 0, and a
thirty-third fails. -/
def Obligations.ThirtyTwoAllocationsThenNone : Prop :=
  (∀ s : State, allocate s = none ↔ s.freeHead = none)
  ∧ (∀ (s s1 : State) (h : SlotIdx), allocate s = some (h, s1) →
      s.freeHead = some h ∧ s1.activeHead = some h ∧ s1.freeList = s.freeList.tail
      ∧ s1.activeList = h :: s.activeList ∧ s1.slots = s.slots)
  ∧ ∀ s : State, s.freeList = List.finRange 32 → s.activeList = [] →
      ∃ s1, allocateMany 32 s = some (List.finRange 32, s1) ∧ s1.activeList = (List.finRange 32).reverse
        ∧ s1.freeList = [] ∧ allocate s1 = none

/-- R191, R155: the outcomes of `wp_set`; the expression is evaluated before a slot is taken. Which outcome a text has that
breaks more than one bound of R155, or a bound and the evaluator, is the model's choice (log 15): a syntax error, then
`MAX_TOKENS`, then a fatal expression, then `MAX_EXPR_LEN`. -/
def Obligations.WatchpointSetOutcomes : Prop :=
  ∀ (s t : State) (text : Text) (rest : List Input), Given s (.wpSet text) rest → AcceptsWatchpoints s →
    step s = .next t →
    t.regs = s.regs ∧ t.pc = s.pc ∧ t.mem = s.mem
    ∧ (∀ p, (exprValue s text).2 = .syntaxError p →
        t.response = some (.syntaxError p) ∧ t.runState = s.runState ∧ t.slots = s.slots ∧ t.freeList = s.freeList
        ∧ t.activeList = s.activeList)
    ∧ (∀ r, (exprValue s text).2 = .fatal r →
        t.runState = .fatal ∧ t.fatalReason = r ∧ t.slots = s.slots ∧ t.freeList = s.freeList
        ∧ t.activeList = s.activeList)
    ∧ ((exprValue s text).2 = .capacity →
        t.response = some .capacity ∧ t.runState = s.runState ∧ t.slots = s.slots ∧ t.freeList = s.freeList
        ∧ t.activeList = s.activeList)
    ∧ (∀ v, (exprValue s text).2 = .ok v → exceeds text.length s.cfg.maxExprLen = true →
        t.response = some .capacity ∧ t.runState = s.runState ∧ t.slots = s.slots ∧ t.freeList = s.freeList
        ∧ t.activeList = s.activeList)
    ∧ ∀ v, (exprValue s text).2 = .ok v → exceeds text.length s.cfg.maxExprLen = false →
        (s.freeList = [] → t.runState = .fatal ∧ t.fatalReason = .poolExhausted ∧ t.slots = s.slots
          ∧ t.activeList = s.activeList)
        ∧ ∀ h free, s.freeList = h :: free →
          t.response = some (.handle h) ∧ t.runState = s.runState ∧ t.slot h = { expr := text, last := v }
          ∧ (∀ k, k ≠ h → t.slot k = s.slot k) ∧ t.freeList = free ∧ t.activeList = h :: s.activeList

/-- R194: deleting an active id unlinks it, keeps the order of the others and puts the slot at the head of the free
list, where the next allocation takes it; any other id is reported and nothing changes. -/
def Obligations.WatchpointDeleteOutcomes : Prop :=
  ∀ (s : State) (id : Int) (rest : List Input), Given s (.wpDelete id) rest → AcceptsWatchpoints s →
    PoolPartition s →
    ((∀ h ∈ s.activeList, (h.val : Int) ≠ id) → step s = .next { taken s rest with response := some .refused })
    ∧ ∀ h ∈ s.activeList, (h.val : Int) = id →
      ∃ t, step s = .next t ∧ t.response = some .accepted ∧ t.activeList = s.activeList.filter (· ≠ h)
        ∧ t.freeList = h :: s.freeList ∧ (t.slot h).expr = [] ∧ (∀ k, k ≠ h → t.slot k = s.slot k)
        ∧ (∃ s1, allocate t = some (h, s1)) ∧ t.runState = s.runState ∧ t.regs = s.regs ∧ t.pc = s.pc
        ∧ t.mem = s.mem

/-- R192, R22: one scan. `val h` is the value the expression of `h` has now. A fatal expression ends the scan there. -/
def Obligations.ChangeDetectionScan : Prop :=
  ∀ (s t : State) (changes : List Change) (val : SlotIdx → Word), PoolPartition s → detectChanges s = (changes, t) →
    t.regs = s.regs ∧ t.pc = s.pc ∧ t.mem = s.mem ∧ t.freeList = s.freeList ∧ t.activeList = s.activeList
    ∧ ((∀ h ∈ s.activeList, (exprValue s (s.slot h).expr).2 = .ok (val h)) →
        changes = (s.activeList.filter fun h => val h ≠ (s.slot h).last).map
            (fun h => { handle := h, old := (s.slot h).last })
        ∧ (∀ h ∈ s.activeList, t.slot h = { expr := (s.slot h).expr, last := val h })
        ∧ (∀ h, h ∉ s.activeList → t.slot h = s.slot h)
        ∧ t.runState = (if changes ≠ [] ∧ s.runState = .running then .stopped else s.runState)
        ∧ t.fatalReason = s.fatalReason)
    ∧ ∀ before h after r, s.activeList = before ++ h :: after →
        (∀ k ∈ before, (exprValue s (s.slot k).expr).2 = .ok (val k)) →
        (exprValue s (s.slot h).expr).2 = .fatal r →
        t.runState = .fatal ∧ t.fatalReason = r
        ∧ (∀ k ∈ before, t.slot k = { expr := (s.slot k).expr, last := val k })
        ∧ ∀ k, k ∉ before → t.slot k = s.slot k

/-- R193, R199: the scan follows every executed step but a fatal one, a trap state wins over a change, which is still
recorded, and nothing but a step of a run refreshes the cached value of an active watchpoint. -/
def Obligations.ScanFollowsEveryExecutedStep : Prop :=
  ∀ s t : State, PoolPartition s → step s = .next t →
    (∀ u v changes, RunnableState s → AfterExecOnce s u → detectChanges (countStep u) = (changes, v) →
      (u.runState = .fatal → t.slots = s.slots ∧ t.response = some (.runEnded (s.progress.done + 1) []))
      ∧ (u.runState ≠ .fatal → t.slots = v.slots)
      ∧ (u.runState = .trappedOk ∨ u.runState = .trappedBad ∨ u.runState = .halted → v.runState ≠ .fatal →
          t.runState = u.runState ∧ t.haltRet = u.haltRet ∧ t.trapPc = u.trapPc
          ∧ t.response = some (.runEnded (s.progress.done + 1) changes)))
    ∧ (s.runState ≠ .running → ∀ h, h ∈ s.activeList → h ∈ t.activeList → t.slot h = s.slot h)
    ∧ (s.activeList = [] → detectChanges s = ([], s))

/-- R196: the program cannot observe the debug unit. Two runnable states that agree on registers, `pc`, memory and
parameters, and differ in anything else, agree on them after a step. -/
def Obligations.ProgramCannotObserveTheDebugUnit : Prop :=
  ∀ s s' t t' : State, SameProgramState s s' → RunnableState s → RunnableState s' → step s = .next t →
    step s' = .next t' → SameProgramState t t'

/-- R192, R196, R226: the scan sees `pc` after the step, so a watchpoint on `$pc` stops the run after every step that
moves it, and the change carries the old value. -/
def Obligations.PcWatchpointStopsAfterEveryStep : Prop :=
  ∀ (s u : State) (h : SlotIdx), RunnableState s → AfterExecOnce s u → u.runState = .running → u.pc ≠ s.pc →
    s.activeList = [h] → s.slot h = { expr := "$pc".toList, last := s.pc } → exceeds 1 s.cfg.maxTokens = false →
    ∃ t, step s = .next t ∧ t.runState = .stopped ∧ (t.slot h).last = u.pc
      ∧ t.response = some (.runEnded (s.progress.done + 1) [{ handle := h, old := s.pc }])

/-- R38, R188: with a total byte map and no active watchpoint, no step of a run is fatal. -/
def Obligations.TotalMemoryRunsAreNeverFatal : Prop :=
  ∀ s t : State, s.cfg.admitted = none → s.activeList = [] → s.runState = .running → step s = .next t → Safe t

/-! ## Watch expressions -/

/-- R153: the tokens of a text that tokenizes are the text without its spaces and tabs; a text that does not is reported
at a position inside it where no lexical rule matches. -/
def Obligations.TokenizerCoversTheText : Prop :=
  (∀ (text : Text) (tokens : List Token), tokenize text = .ok tokens →
    tokens.flatMap Token.text = text.filter (fun c => c ≠ ' ' ∧ c ≠ '\t') ∧ ∀ t ∈ tokens, t.text ≠ [])
  ∧ ∀ (text : Text) (p : Nat), tokenize text = .error p →
      p < text.length ∧ ∀ r ∈ lexRules, r.matchLen (text.drop p) = 0

/-- R156: the retag pass, from the types before it. -/
def Obligations.RetagPassIsTheRule : Prop :=
  ∀ tokens : List Token, (retag tokens).length = tokens.length ∧
    ∀ (i : Nat) (t : Token), tokens[i]? = some t →
      ∃ t', (retag tokens)[i]? = some t' ∧ t'.text = t.text ∧
        let unary := i = 0 ∨ ∃ p, tokens[i - 1]? = some p ∧ p.type ∉ [TokenType.dec, .hex, .reg, .rparen]
        (t.type = .minus → unary → t'.type = .neg) ∧ (t.type = .star → unary → t'.type = .deref)
        ∧ (¬unary → t'.type = t.type) ∧ (t.type ≠ .minus → t.type ≠ .star → t'.type = t.type)

/-- R160, R161, R165: operators of one class associate to the left, and an operator of a higher class binds tighter than
one of a lower class on either side, for the four classes and on any single-token operands that have values. -/
def Obligations.OperatorsAssociateToTheLeft : Prop :=
  ∀ (s : State) (t1 t2 t3 o1 o2 : Token) (a b c : Word) (k1 k2 : Nat), singleToken s t1 = .ok a →
    singleToken s t2 = .ok b → singleToken s t3 = .ok c → operatorClass o1.type = some k1 →
    operatorClass o2.type = some k2 →
    let value := (evalRange s 5 [t1, o1, t2, o2, t3]).2
    let left := (applyBinary s.cfg.exprDivSigned o1.type a b).bind
      fun x => applyBinary s.cfg.exprDivSigned o2.type x c
    let right := (applyBinary s.cfg.exprDivSigned o2.type b c).bind
      fun y => applyBinary s.cfg.exprDivSigned o1.type a y
    (k2 ≤ k1 → value = left) ∧ (k1 < k2 → value = right)

/-- The number of tokens is enough fuel: more changes nothing, which follows from the shorter ranges of R166. -/
def Obligations.TokenCountIsEnoughFuel : Prop :=
  ∀ (s : State) (tokens : List Token) (n : Nat), tokens.length ≤ n →
    evalRange s n tokens = evalRange s tokens.length tokens

/-- The values and errors the rules R154, R156 to R165 give for these texts, in every state whose capacities admit
them; and R162 on any single-token address, with the word read or the memory fault. Where both sides of an operator are
fatal the reason is one of the two, as R161 leaves it (log 24). -/
def Obligations.ExpressionExamples : Prop :=
  (∀ (s : State) (t : Token) (a : Word), singleToken s t = .ok a →
    evalRange s 2 [{ type := .deref, text := ['*'] }, t] = ([.read a .four],
      if s.admitsAccess a .four = true then
        .ok (BitVec.ofNat 32 ((Memory.byte s.mem a).toNat + 2 ^ 8 * (Memory.byte s.mem (a + 1#32)).toNat
          + 2 ^ 16 * (Memory.byte s.mem (a + 2#32)).toNat + 2 ^ 24 * (Memory.byte s.mem (a + 3#32)).toNat))
      else .error .memFault))
  ∧ ∀ s : State, s.cfg.maxTokens = none →
    (exprValue s "-5+3".toList).2 = .ok 0xfffffffe#32 ∧ (exprValue s "10-3-2".toList).2 = .ok 5#32
    ∧ (exprValue s "10/3*3".toList).2 = .ok 9#32 ∧ (exprValue s "1==1==1".toList).2 = .ok 1#32
    ∧ (exprValue s "2--3".toList).2 = .ok 5#32 ∧ (exprValue s "--5".toList).2 = .ok 5#32
    ∧ (exprValue s "-1==0xffffffff".toList).2 = .ok 1#32 ∧ (exprValue s "4*8".toList).2 = .ok 32#32
    ∧ (exprValue s "(1)+(2)".toList).2 = .ok 3#32 ∧ (exprValue s "0&&1/0".toList).2 = .fatal .exprDivZero
    ∧ (exprValue s "()".toList).2 = .fatal .emptyRange ∧ (exprValue s "2+".toList).2 = .fatal .emptyRange
    ∧ (exprValue s "(1".toList).2 = .fatal .unmatchedParen ∧ (exprValue s "1 2".toList).2 = .fatal .malformed
    ∧ (exprValue s "*".toList).2 = .fatal .malformed ∧ (exprValue s "$a8".toList).2 = .fatal .unknownRegister
    ∧ (exprValue s "4294967296".toList).2 = .fatal .literalRange
    ∧ (exprValue s "1= =2".toList).2 = .syntaxError 1 ∧ (exprValue s "12ab".toList).2 = .syntaxError 2
    ∧ exprValue s "*8".toList = ([.read 8#32 .four],
        if s.admitsAccess 8#32 .four = true then .ok (Memory.read s.mem 8#32 .four) else .fatal .memFault)
    ∧ (s.admitsAccess (s.readReg 2#5) .four = true →
        (exprValue s "*$sp+4".toList).2 = .ok (Memory.read s.mem (s.readReg 2#5) .four + 4#32))
    ∧ (exprValue s "1/0+*8".toList).1 = [.read 8#32 .four]
    ∧ (s.admitsAccess 8#32 .four = true → (exprValue s "1/0+*8".toList).2 = .fatal .exprDivZero)
    ∧ ((exprValue s "1/0+()".toList).2 = .fatal .exprDivZero ∨ (exprValue s "1/0+()".toList).2 = .fatal .emptyRange)
    ∧ (exprValue s "$a0+$pc".toList).2 = .ok (s.readReg 10#5 + s.pc)

/-- R11: the names a register reference may have, and no other. -/
def Obligations.RegisterNamesResolve : Prop :=
  (∀ s : State, resolve s "$pc".toList = some s.pc ∧ resolve s "$zero".toList = some 0#32
    ∧ resolve s "$fp".toList = some (s.readReg 8#5))
  ∧ (∀ (s : State) (i : Nat) (name : String), abiNames[i]? = some name →
      resolve s ('$' :: name.toList) = some (s.readReg (BitVec.ofNat 5 i)))
  ∧ (∀ (s : State) (i : Nat), i < 32 →
      resolve s ('$' :: 'x' :: (Nat.repr i).toList) = some (s.readReg (BitVec.ofNat 5 i)))
  ∧ abiNames = ["0", "ra", "sp", "gp", "tp", "t0", "t1", "t2", "s0", "s1", "a0", "a1", "a2", "a3", "a4", "a5", "a6",
      "a7", "s2", "s3", "s4", "s5", "s6", "s7", "s8", "s9", "s10", "s11", "t3", "t4", "t5", "t6"]
  ∧ ∀ (s : State) (name : Text), (∀ n ∈ abiNames, name ≠ n.toList) → (∀ i, i < 32 → name ≠ 'x' :: (Nat.repr i).toList) →
      name ≠ "pc".toList → name ≠ "zero".toList → name ≠ "fp".toList → resolve s ('$' :: name) = none
end

