-- ==== Sys2Proof/Laws/Decode.lean ====
section
/-! SUPPORT. The laws of the encoding: the bits of each format, its fields, the masks of the table, and what the
first-match scan selects. -/

namespace Sys2Proof

/-! ## The bits of each format -/

theorem getLsbD_encodeR (funct7 : BitVec 7) (funct3 : BitVec 3) (opcode : BitVec 7) (rd rs1 rs2 : RegIdx) (k : Nat) :
    (encodeR funct7 funct3 opcode rd rs1 rs2).getLsbD k =
      if k < 7 then opcode.getLsbD k else if k < 12 then rd.getLsbD (k - 7) else if k < 15 then funct3.getLsbD (k - 12)
      else if k < 20 then rs1.getLsbD (k - 15) else if k < 25 then rs2.getLsbD (k - 20)
      else funct7.getLsbD (k - 25) := by
  have h : BitVec.getLsbD (w := 7 + 5 + 5 + 3 + 5 + 7) (funct7 ++ rs2 ++ rs1 ++ funct3 ++ rd ++ opcode) k =
      if k < 7 then opcode.getLsbD k else if k < 12 then rd.getLsbD (k - 7) else if k < 15 then funct3.getLsbD (k - 12)
      else if k < 20 then rs1.getLsbD (k - 15) else if k < 25 then rs2.getLsbD (k - 20)
      else funct7.getLsbD (k - 25) := by
    simp only [BitVec.getLsbD_append, Nat.sub_sub]
    repeat' split
    all_goals first | rfl | omega
  exact h

theorem getLsbD_encodeI (funct3 : BitVec 3) (opcode : BitVec 7) (rd rs1 : RegIdx) (imm : BitVec 12) (k : Nat) :
    (encodeI funct3 opcode rd rs1 imm).getLsbD k =
      if k < 7 then opcode.getLsbD k else if k < 12 then rd.getLsbD (k - 7) else if k < 15 then funct3.getLsbD (k - 12)
      else if k < 20 then rs1.getLsbD (k - 15) else imm.getLsbD (k - 20) := by
  have h : BitVec.getLsbD (w := 12 + 5 + 3 + 5 + 7) (imm ++ rs1 ++ funct3 ++ rd ++ opcode) k =
      if k < 7 then opcode.getLsbD k else if k < 12 then rd.getLsbD (k - 7) else if k < 15 then funct3.getLsbD (k - 12)
      else if k < 20 then rs1.getLsbD (k - 15) else imm.getLsbD (k - 20) := by
    simp only [BitVec.getLsbD_append, Nat.sub_sub]
    repeat' split
    all_goals first | rfl | omega
  exact h

/-- A shift-immediate is type I with the fixed bits above `imm6`. -/
theorem encodeShift_eq (hi : BitVec 6) (funct3 : BitVec 3) (opcode : BitVec 7) (rd rs1 : RegIdx) (imm6 : BitVec 6) :
    encodeShift hi funct3 opcode rd rs1 imm6 = encodeI funct3 opcode rd rs1 (hi ++ imm6) := rfl

/-- Type S is type R with the immediate's two parts in the places of `funct7` and `rd`. -/
theorem encodeS_eq (funct3 : BitVec 3) (opcode : BitVec 7) (rs1 rs2 : RegIdx) (imm : BitVec 12) :
    encodeS funct3 opcode rs1 rs2 imm
      = encodeR (imm.extractLsb' 5 7) funct3 opcode (imm.extractLsb' 0 5) rs1 rs2 := rfl

/-- Type B is type R with the offset's parts in the places of `funct7` and `rd`. -/
theorem encodeB_eq (funct3 : BitVec 3) (opcode : BitVec 7) (rs1 rs2 : RegIdx) (offset : BitVec 13) :
    encodeB funct3 opcode rs1 rs2 offset
      = encodeR (offset.extractLsb' 12 1 ++ offset.extractLsb' 5 6) funct3 opcode
          (offset.extractLsb' 1 4 ++ offset.extractLsb' 11 1) rs1 rs2 := by
  apply BitVec.eq_of_getLsbD_eq
  intro k hk
  have h : BitVec.getLsbD (w := 1 + 6 + 5 + 5 + 3 + 4 + 1 + 7)
      (offset.extractLsb' 12 1 ++ offset.extractLsb' 5 6 ++ rs2 ++ rs1 ++ funct3 ++ offset.extractLsb' 1 4
        ++ offset.extractLsb' 11 1 ++ opcode) k
      = (encodeR (offset.extractLsb' 12 1 ++ offset.extractLsb' 5 6) funct3 opcode
          (offset.extractLsb' 1 4 ++ offset.extractLsb' 11 1) rs1 rs2).getLsbD k := by
    rw [getLsbD_encodeR]
    simp only [BitVec.getLsbD_append, Nat.sub_sub]
    repeat' split
    all_goals first | rfl | omega
  exact h

/-- Type J is type U with the offset's parts in the place of the immediate. -/
theorem encodeJ_eq (opcode : BitVec 7) (rd : RegIdx) (offset : BitVec 21) :
    encodeJ opcode rd offset
      = encodeU opcode rd (offset.extractLsb' 20 1 ++ offset.extractLsb' 1 10 ++ offset.extractLsb' 11 1
          ++ offset.extractLsb' 12 8) := rfl

theorem getLsbD_encodeU (opcode : BitVec 7) (rd : RegIdx) (imm20 : BitVec 20) (k : Nat) :
    (encodeU opcode rd imm20).getLsbD k =
      if k < 7 then opcode.getLsbD k else if k < 12 then rd.getLsbD (k - 7) else imm20.getLsbD (k - 12) := by
  have h : BitVec.getLsbD (w := 20 + 5 + 7) (imm20 ++ rd ++ opcode) k =
      if k < 7 then opcode.getLsbD k else if k < 12 then rd.getLsbD (k - 7) else imm20.getLsbD (k - 12) := by
    simp only [BitVec.getLsbD_append, Nat.sub_sub]
    repeat' split
    all_goals first | rfl | omega
  exact h

/-! ## Fields read from a word of a format -/

section
variable (funct7 : BitVec 7) (funct3 : BitVec 3) (opcode : BitVec 7) (rd rs1 rs2 : RegIdx) (imm : BitVec 12)
  (imm20 : BitVec 20)

@[simp] theorem opcode_encodeR : (encodeR funct7 funct3 opcode rd rs1 rs2).extractLsb' 0 7 = opcode := by
  apply BitVec.eq_of_getLsbD_eq
  intro k hk
  simp only [BitVec.getLsbD_extractLsb', getLsbD_encodeR, Nat.zero_add, hk, decide_true, Bool.true_and, if_true]

@[simp] theorem rd_encodeR : (encodeR funct7 funct3 opcode rd rs1 rs2).extractLsb' 7 5 = rd := by
  apply BitVec.eq_of_getLsbD_eq
  intro k hk
  simp only [BitVec.getLsbD_extractLsb', getLsbD_encodeR, hk, decide_true, Bool.true_and]
  rw [if_neg (by omega), if_pos (by omega), Nat.add_sub_cancel_left]

@[simp] theorem funct3_encodeR : (encodeR funct7 funct3 opcode rd rs1 rs2).extractLsb' 12 3 = funct3 := by
  apply BitVec.eq_of_getLsbD_eq
  intro k hk
  simp only [BitVec.getLsbD_extractLsb', getLsbD_encodeR, hk, decide_true, Bool.true_and]
  rw [if_neg (by omega), if_neg (by omega), if_pos (by omega), Nat.add_sub_cancel_left]

@[simp] theorem rs1_encodeR : (encodeR funct7 funct3 opcode rd rs1 rs2).extractLsb' 15 5 = rs1 := by
  apply BitVec.eq_of_getLsbD_eq
  intro k hk
  simp only [BitVec.getLsbD_extractLsb', getLsbD_encodeR, hk, decide_true, Bool.true_and]
  rw [if_neg (by omega), if_neg (by omega), if_neg (by omega), if_pos (by omega), Nat.add_sub_cancel_left]

@[simp] theorem rs2_encodeR : (encodeR funct7 funct3 opcode rd rs1 rs2).extractLsb' 20 5 = rs2 := by
  apply BitVec.eq_of_getLsbD_eq
  intro k hk
  simp only [BitVec.getLsbD_extractLsb', getLsbD_encodeR, hk, decide_true, Bool.true_and]
  rw [if_neg (by omega), if_neg (by omega), if_neg (by omega), if_neg (by omega), if_pos (by omega),
    Nat.add_sub_cancel_left]

@[simp] theorem funct7_encodeR : (encodeR funct7 funct3 opcode rd rs1 rs2).extractLsb' 25 7 = funct7 := by
  apply BitVec.eq_of_getLsbD_eq
  intro k hk
  simp only [BitVec.getLsbD_extractLsb', getLsbD_encodeR, hk, decide_true, Bool.true_and]
  rw [if_neg (by omega), if_neg (by omega), if_neg (by omega), if_neg (by omega), if_neg (by omega),
    Nat.add_sub_cancel_left]

@[simp] theorem opcode_encodeI : (encodeI funct3 opcode rd rs1 imm).extractLsb' 0 7 = opcode := by
  apply BitVec.eq_of_getLsbD_eq
  intro k hk
  simp only [BitVec.getLsbD_extractLsb', getLsbD_encodeI, Nat.zero_add, hk, decide_true, Bool.true_and, if_true]

@[simp] theorem rd_encodeI : (encodeI funct3 opcode rd rs1 imm).extractLsb' 7 5 = rd := by
  apply BitVec.eq_of_getLsbD_eq
  intro k hk
  simp only [BitVec.getLsbD_extractLsb', getLsbD_encodeI, hk, decide_true, Bool.true_and]
  rw [if_neg (by omega), if_pos (by omega), Nat.add_sub_cancel_left]

@[simp] theorem funct3_encodeI : (encodeI funct3 opcode rd rs1 imm).extractLsb' 12 3 = funct3 := by
  apply BitVec.eq_of_getLsbD_eq
  intro k hk
  simp only [BitVec.getLsbD_extractLsb', getLsbD_encodeI, hk, decide_true, Bool.true_and]
  rw [if_neg (by omega), if_neg (by omega), if_pos (by omega), Nat.add_sub_cancel_left]

@[simp] theorem rs1_encodeI : (encodeI funct3 opcode rd rs1 imm).extractLsb' 15 5 = rs1 := by
  apply BitVec.eq_of_getLsbD_eq
  intro k hk
  simp only [BitVec.getLsbD_extractLsb', getLsbD_encodeI, hk, decide_true, Bool.true_and]
  rw [if_neg (by omega), if_neg (by omega), if_neg (by omega), if_pos (by omega), Nat.add_sub_cancel_left]

@[simp] theorem imm_encodeI : (encodeI funct3 opcode rd rs1 imm).extractLsb' 20 12 = imm := by
  apply BitVec.eq_of_getLsbD_eq
  intro k hk
  simp only [BitVec.getLsbD_extractLsb', getLsbD_encodeI, hk, decide_true, Bool.true_and]
  rw [if_neg (by omega), if_neg (by omega), if_neg (by omega), if_neg (by omega), Nat.add_sub_cancel_left]

@[simp] theorem opcode_encodeU : (encodeU opcode rd imm20).extractLsb' 0 7 = opcode := by
  apply BitVec.eq_of_getLsbD_eq
  intro k hk
  simp only [BitVec.getLsbD_extractLsb', getLsbD_encodeU, Nat.zero_add, hk, decide_true, Bool.true_and, if_true]

@[simp] theorem rd_encodeU : (encodeU opcode rd imm20).extractLsb' 7 5 = rd := by
  apply BitVec.eq_of_getLsbD_eq
  intro k hk
  simp only [BitVec.getLsbD_extractLsb', getLsbD_encodeU, hk, decide_true, Bool.true_and]
  rw [if_neg (by omega), if_pos (by omega), Nat.add_sub_cancel_left]

@[simp] theorem imm_encodeU : (encodeU opcode rd imm20).extractLsb' 12 20 = imm20 := by
  apply BitVec.eq_of_getLsbD_eq
  intro k hk
  simp only [BitVec.getLsbD_extractLsb', getLsbD_encodeU, hk, decide_true, Bool.true_and]
  rw [if_neg (by omega), if_neg (by omega), Nat.add_sub_cancel_left]

end

/-! ## The split immediates, bit by bit -/

theorem getLsbD_immSField (w : Word) (k : Nat) :
    (immSField w).getLsbD k
      = if k < 5 then w.getLsbD (7 + k) else if k < 12 then w.getLsbD (20 + k) else false := by
  have h : BitVec.getLsbD (w := 7 + 5) (w.extractLsb' 25 7 ++ w.extractLsb' 7 5) k
      = if k < 5 then w.getLsbD (7 + k) else if k < 12 then w.getLsbD (20 + k) else false := by
    simp only [BitVec.getLsbD_append, BitVec.getLsbD_extractLsb']
    split
    · simp [*]
    · split
      · rw [decide_eq_true (by omega), Bool.true_and]; congr 1; omega
      · rw [decide_eq_false (by omega), Bool.false_and]
  exact h

theorem getLsbD_immBField (w : Word) (k : Nat) :
    (immBField w).getLsbD k
      = if k < 1 then false else if k < 5 then w.getLsbD (7 + k) else if k < 11 then w.getLsbD (20 + k)
        else if k < 12 then w.getLsbD 7 else if k < 13 then w.getLsbD 31 else false := by
  have h : BitVec.getLsbD (w := 1 + 1 + 6 + 4 + 1)
      (w.extractLsb' 31 1 ++ w.extractLsb' 7 1 ++ w.extractLsb' 25 6 ++ w.extractLsb' 8 4 ++ 0#1) k
      = if k < 1 then false else if k < 5 then w.getLsbD (7 + k) else if k < 11 then w.getLsbD (20 + k)
        else if k < 12 then w.getLsbD 7 else if k < 13 then w.getLsbD 31 else false := by
    simp only [BitVec.getLsbD_append, BitVec.getLsbD_extractLsb', Nat.sub_sub]
    repeat' split
    all_goals
      first
      | omega
      | (rw [decide_eq_true (by omega), Bool.true_and]; congr 1; omega)
      | (rw [decide_eq_false (by omega), Bool.false_and])
      | simp
  exact h

theorem getLsbD_immJField (w : Word) (k : Nat) :
    (immJField w).getLsbD k
      = if k < 1 then false else if k < 11 then w.getLsbD (20 + k) else if k < 12 then w.getLsbD 20
        else if k < 20 then w.getLsbD k else if k < 21 then w.getLsbD 31 else false := by
  have h : BitVec.getLsbD (w := 1 + 8 + 1 + 10 + 1)
      (w.extractLsb' 31 1 ++ w.extractLsb' 12 8 ++ w.extractLsb' 20 1 ++ w.extractLsb' 21 10 ++ 0#1) k
      = if k < 1 then false else if k < 11 then w.getLsbD (20 + k) else if k < 12 then w.getLsbD 20
        else if k < 20 then w.getLsbD k else if k < 21 then w.getLsbD 31 else false := by
    simp only [BitVec.getLsbD_append, BitVec.getLsbD_extractLsb', Nat.sub_sub]
    repeat' split
    all_goals
      first
      | omega
      | (rw [decide_eq_true (by omega), Bool.true_and]; congr 1; omega)
      | (rw [decide_eq_false (by omega), Bool.false_and])
      | simp
  exact h

@[simp] theorem imm6_encodeShift (hi : BitVec 6) (funct3 : BitVec 3) (opcode : BitVec 7) (rd rs1 : RegIdx)
    (imm6 : BitVec 6) : imm6Field (encodeShift hi funct3 opcode rd rs1 imm6) = imm6 := by
  apply BitVec.eq_of_getLsbD_eq
  intro k hk
  rw [imm6Field, encodeShift_eq, BitVec.getLsbD_extractLsb', getLsbD_encodeI, decide_eq_true hk, Bool.true_and,
    if_neg (by omega), if_neg (by omega), if_neg (by omega), if_neg (by omega), Nat.add_sub_cancel_left]
  exact (BitVec.getLsbD_append (x := hi) (y := imm6)).trans (if_pos hk)

theorem hi_encodeShift (hi : BitVec 6) (funct3 : BitVec 3) (opcode : BitVec 7) (rd rs1 : RegIdx)
    (imm6 : BitVec 6) : (encodeShift hi funct3 opcode rd rs1 imm6).extractLsb' 26 6 = hi := by
  apply BitVec.eq_of_getLsbD_eq
  intro k hk
  rw [encodeShift_eq, BitVec.getLsbD_extractLsb', getLsbD_encodeI, decide_eq_true hk, Bool.true_and,
    if_neg (by omega), if_neg (by omega), if_neg (by omega), if_neg (by omega)]
  refine (BitVec.getLsbD_append (x := hi) (y := imm6)).trans ?_
  rw [if_neg (by omega)]
  congr 1; omega

@[simp] theorem immS_encodeS (funct3 : BitVec 3) (opcode : BitVec 7) (rs1 rs2 : RegIdx) (imm : BitVec 12) :
    immSField (encodeS funct3 opcode rs1 rs2 imm) = imm := by
  apply BitVec.eq_of_getLsbD_eq
  intro k hk
  simp only [getLsbD_immSField, encodeS_eq, getLsbD_encodeR, BitVec.getLsbD_extractLsb']
  repeat' split
  all_goals
    first
    | omega
    | (rw [decide_eq_true (by omega), Bool.true_and]; congr 1; omega)

theorem getLsbD_encodeB (funct3 : BitVec 3) (opcode : BitVec 7) (rs1 rs2 : RegIdx) (offset : BitVec 13) (k : Nat) :
    (encodeB funct3 opcode rs1 rs2 offset).getLsbD k =
      if k < 7 then opcode.getLsbD k else if k < 8 then offset.getLsbD 11 else if k < 12 then offset.getLsbD (k - 7)
      else if k < 15 then funct3.getLsbD (k - 12) else if k < 20 then rs1.getLsbD (k - 15)
      else if k < 25 then rs2.getLsbD (k - 20) else if k < 31 then offset.getLsbD (k - 20)
      else if k < 32 then offset.getLsbD 12 else false := by
  have h : BitVec.getLsbD (w := 1 + 6 + 5 + 5 + 3 + 4 + 1 + 7)
      (offset.extractLsb' 12 1 ++ offset.extractLsb' 5 6 ++ rs2 ++ rs1 ++ funct3 ++ offset.extractLsb' 1 4
        ++ offset.extractLsb' 11 1 ++ opcode) k
      = if k < 7 then opcode.getLsbD k else if k < 8 then offset.getLsbD 11 else if k < 12 then offset.getLsbD (k - 7)
      else if k < 15 then funct3.getLsbD (k - 12) else if k < 20 then rs1.getLsbD (k - 15)
      else if k < 25 then rs2.getLsbD (k - 20) else if k < 31 then offset.getLsbD (k - 20)
      else if k < 32 then offset.getLsbD 12 else false := by
    simp only [BitVec.getLsbD_append, BitVec.getLsbD_extractLsb', Nat.sub_sub]
    repeat' split
    all_goals
      first
      | omega
      | rfl
      | (rw [decide_eq_true (by omega), Bool.true_and]; congr 1; omega)
      | (rw [decide_eq_false (by omega), Bool.false_and])
  exact h

/-- R54: the offset's low bit is implicit, so an even offset is read back. -/
theorem immB_encodeB (funct3 : BitVec 3) (opcode : BitVec 7) (rs1 rs2 : RegIdx) (offset : BitVec 13)
    (he : evenOffset offset = true) : immBField (encodeB funct3 opcode rs1 rs2 offset) = offset := by
  apply BitVec.eq_of_getLsbD_eq
  intro k hk
  rw [getLsbD_immBField]
  have hb := getLsbD_encodeB funct3 opcode rs1 rs2 offset
  split
  · have : k = 0 := by omega
    subst this
    simpa [evenOffset] using he
  · split
    · rw [hb, if_neg (by omega), if_neg (by omega), if_pos (by omega), Nat.add_sub_cancel_left]
    · split
      · rw [hb, if_neg (by omega), if_neg (by omega), if_neg (by omega), if_neg (by omega), if_neg (by omega),
          if_neg (by omega), if_pos (by omega), Nat.add_sub_cancel_left]
      · split
        · rw [hb, if_neg (by omega), if_pos (by omega)]
          congr 1; omega
        · rw [hb]
          simp only [Nat.reduceLT, if_true, if_false]
          congr 1; omega

theorem getLsbD_encodeJ (opcode : BitVec 7) (rd : RegIdx) (offset : BitVec 21) (k : Nat) :
    (encodeJ opcode rd offset).getLsbD k =
      if k < 7 then opcode.getLsbD k else if k < 12 then rd.getLsbD (k - 7) else if k < 20 then offset.getLsbD k
      else if k < 21 then offset.getLsbD 11 else if k < 31 then offset.getLsbD (k - 20)
      else if k < 32 then offset.getLsbD 20 else false := by
  have h : BitVec.getLsbD (w := 1 + 10 + 1 + 8 + 5 + 7)
      (offset.extractLsb' 20 1 ++ offset.extractLsb' 1 10 ++ offset.extractLsb' 11 1 ++ offset.extractLsb' 12 8 ++ rd
        ++ opcode) k
      = if k < 7 then opcode.getLsbD k else if k < 12 then rd.getLsbD (k - 7) else if k < 20 then offset.getLsbD k
      else if k < 21 then offset.getLsbD 11 else if k < 31 then offset.getLsbD (k - 20)
      else if k < 32 then offset.getLsbD 20 else false := by
    simp only [BitVec.getLsbD_append, BitVec.getLsbD_extractLsb', Nat.sub_sub]
    repeat' split
    all_goals
      first
      | omega
      | rfl
      | (rw [decide_eq_true (by omega), Bool.true_and]; congr 1; omega)
      | (rw [decide_eq_false (by omega), Bool.false_and])
  exact h

/-- R52: the offset's low bit is implicit, so an even offset is read back. -/
theorem immJ_encodeJ (opcode : BitVec 7) (rd : RegIdx) (offset : BitVec 21) (he : evenOffset offset = true) :
    immJField (encodeJ opcode rd offset) = offset := by
  apply BitVec.eq_of_getLsbD_eq
  intro k hk
  simp only [getLsbD_immJField, getLsbD_encodeJ]
  split
  · have : k = 0 := by omega
    subst this
    simpa [evenOffset] using he
  · repeat' split
    all_goals first | omega | rfl | (congr 1; omega)

/-! ## A word is its fields -/

theorem encodeR_fields (w : Word) :
    encodeR (w.extractLsb' 25 7) (w.extractLsb' 12 3) (w.extractLsb' 0 7) (w.extractLsb' 7 5) (w.extractLsb' 15 5)
      (w.extractLsb' 20 5) = w := by
  apply BitVec.eq_of_getLsbD_eq
  intro k hk
  rw [getLsbD_encodeR]
  simp only [BitVec.getLsbD_extractLsb']
  repeat' split
  all_goals
    first
    | rw [decide_eq_true (by omega), Bool.true_and]; congr 1; omega

theorem encodeI_fields (w : Word) :
    encodeI (w.extractLsb' 12 3) (w.extractLsb' 0 7) (w.extractLsb' 7 5) (w.extractLsb' 15 5) (w.extractLsb' 20 12)
      = w := by
  apply BitVec.eq_of_getLsbD_eq
  intro k hk
  rw [getLsbD_encodeI]
  simp only [BitVec.getLsbD_extractLsb']
  repeat' split
  all_goals
    first
    | rw [decide_eq_true (by omega), Bool.true_and]; congr 1; omega

theorem encodeU_fields (w : Word) :
    encodeU (w.extractLsb' 0 7) (w.extractLsb' 7 5) (w.extractLsb' 12 20) = w := by
  apply BitVec.eq_of_getLsbD_eq
  intro k hk
  rw [getLsbD_encodeU]
  simp only [BitVec.getLsbD_extractLsb']
  repeat' split
  all_goals
    first
    | rw [decide_eq_true (by omega), Bool.true_and]; congr 1; omega

/-! ## The masks of the table -/

/-- Bits of a range are unchanged by a mask that is all ones there. -/
theorem extract_of_mask (w mask value : Word) (i n : Nat) (h : w &&& mask = value)
    (hm : mask.extractLsb' i n = BitVec.allOnes n) : w.extractLsb' i n = value.extractLsb' i n := by
  rw [← h, BitVec.extractLsb'_and, hm, BitVec.and_allOnes]

theorem encodeR_and (a a' : BitVec 7) (b b' : BitVec 3) (c c' : BitVec 7) (d d' e e' f f' : RegIdx) :
    encodeR a b c d e f &&& encodeR a' b' c' d' e' f'
      = encodeR (a &&& a') (b &&& b') (c &&& c') (d &&& d') (e &&& e') (f &&& f') := by
  apply BitVec.eq_of_getLsbD_eq
  intro k hk
  simp only [BitVec.getLsbD_and, getLsbD_encodeR]
  repeat' split
  all_goals rfl

theorem encodeI_and (b b' : BitVec 3) (c c' : BitVec 7) (d d' e e' : RegIdx) (f f' : BitVec 12) :
    encodeI b c d e f &&& encodeI b' c' d' e' f'
      = encodeI (b &&& b') (c &&& c') (d &&& d') (e &&& e') (f &&& f') := by
  apply BitVec.eq_of_getLsbD_eq
  intro k hk
  simp only [BitVec.getLsbD_and, getLsbD_encodeI]
  repeat' split
  all_goals rfl

theorem encodeU_and (c c' : BitVec 7) (d d' : RegIdx) (f f' : BitVec 20) :
    encodeU c d f &&& encodeU c' d' f' = encodeU (c &&& c') (d &&& d') (f &&& f') := by
  apply BitVec.eq_of_getLsbD_eq
  intro k hk
  simp only [BitVec.getLsbD_and, getLsbD_encodeU]
  repeat' split
  all_goals rfl

/-- What the opcode mask leaves of a word. -/
theorem maskU_eq (w : Word) : w &&& 0x0000007f#32 = encodeU (w.extractLsb' 0 7) 0#5 0#20 := by
  have e : (0x0000007f#32 : Word) = encodeU (BitVec.allOnes 7) 0#5 0#20 := by decide
  rw [e]
  conv => lhs; rw [← encodeU_fields w]
  rw [encodeU_and, BitVec.and_allOnes, BitVec.and_zero, BitVec.and_zero]

/-- What the opcode and `funct3` mask leaves of a word. -/
theorem maskI_eq (w : Word) :
    w &&& 0x0000707f#32 = encodeI (w.extractLsb' 12 3) (w.extractLsb' 0 7) 0#5 0#5 0#12 := by
  have e : (0x0000707f#32 : Word) = encodeI (BitVec.allOnes 3) (BitVec.allOnes 7) 0#5 0#5 0#12 := by decide
  rw [e]
  conv => lhs; rw [← encodeI_fields w]
  rw [encodeI_and, BitVec.and_allOnes, BitVec.and_allOnes, BitVec.and_zero, BitVec.and_zero, BitVec.and_zero]

/-- The upper and lower six bits of the place of a type-I immediate. -/
theorem immI_halves (w : Word) : w.extractLsb' 20 12 = w.extractLsb' 26 6 ++ w.extractLsb' 20 6 := by
  apply BitVec.eq_of_getLsbD_eq
  intro k hk
  have h : BitVec.getLsbD (w := 6 + 6) (w.extractLsb' 26 6 ++ w.extractLsb' 20 6) k = w.getLsbD (20 + k) := by
    simp only [BitVec.getLsbD_append, BitVec.getLsbD_extractLsb']
    split
    · rw [decide_eq_true (by omega), Bool.true_and]
    · rw [decide_eq_true (by omega), Bool.true_and]; congr 1; omega
  rw [BitVec.getLsbD_extractLsb', decide_eq_true hk, Bool.true_and, ← h]

/-- What the mask of a shift-immediate leaves of a word. -/
theorem maskShift_eq (w : Word) :
    w &&& 0xfc00707f#32
      = encodeI (w.extractLsb' 12 3) (w.extractLsb' 0 7) 0#5 0#5 (w.extractLsb' 26 6 ++ 0#6) := by
  have e : (0xfc00707f#32 : Word)
      = encodeI (BitVec.allOnes 3) (BitVec.allOnes 7) 0#5 0#5 (BitVec.allOnes 6 ++ 0#6) := by decide
  rw [e]
  conv => lhs; rw [← encodeI_fields w]
  rw [encodeI_and, BitVec.and_allOnes, BitVec.and_allOnes, BitVec.and_zero, BitVec.and_zero, immI_halves,
    BitVec.and_append, BitVec.and_allOnes, BitVec.and_zero]

/-- What the mask of type R leaves of a word. -/
theorem maskR_eq (w : Word) :
    w &&& 0xfe00707f#32
      = encodeR (w.extractLsb' 25 7) (w.extractLsb' 12 3) (w.extractLsb' 0 7) 0#5 0#5 0#5 := by
  have e : (0xfe00707f#32 : Word)
      = encodeR (BitVec.allOnes 7) (BitVec.allOnes 3) (BitVec.allOnes 7) 0#5 0#5 0#5 := by decide
  rw [e]
  conv => lhs; rw [← encodeR_fields w]
  rw [encodeR_and, BitVec.and_allOnes, BitVec.and_allOnes, BitVec.and_allOnes, BitVec.and_zero, BitVec.and_zero,
    BitVec.and_zero]

/-! ## The first-match scan -/

theorem Entry.matches_iff (e : Entry) (w : Word) : e.matches w = true ↔ w &&& e.mask = e.value := by
  simp [Entry.matches]

/-- Two entries that fix one bit to different values. -/
def Entry.conflicts (e d : Entry) : Prop := e.value &&& d.mask ≠ d.value &&& e.mask

theorem Entry.not_matches_of_conflicts {e d : Entry} (h : e.conflicts d) {w : Word} (he : e.matches w = true) :
    d.matches w = false := by
  rw [Entry.matches_iff] at he
  by_contra hd
  rw [Bool.not_eq_false, Entry.matches_iff] at hd
  apply h
  rw [← he, ← hd, BitVec.and_assoc, BitVec.and_assoc, BitVec.and_comm e.mask d.mask]

theorem firstMatch_append_of_none {xs ys : List Entry} {w : Word} (h : ∀ e ∈ xs, e.matches w = false) :
    firstMatch (xs ++ ys) w = firstMatch ys w := by
  induction xs with
  | nil => rfl
  | cons e rest ih =>
    simp only [List.cons_append, firstMatch, h e (by simp)]
    simpa using ih fun d hd => h d (by simp [hd])

/-- In a list whose entries conflict pairwise, the entry that matches is the one the scan selects, whatever follows. -/
theorem firstMatch_of_mem {xs : List Entry} (hp : xs.Pairwise Entry.conflicts) {e : Entry} (he : e ∈ xs) {w : Word}
    (hm : e.matches w = true) (ys : List Entry) : firstMatch (xs ++ ys) w = some e := by
  induction xs with
  | nil => cases he
  | cons d rest ih =>
    obtain ⟨h1, h2⟩ := List.pairwise_cons.mp hp
    simp only [List.cons_append, firstMatch]
    rcases List.mem_cons.mp he with rfl | hr
    · simp [hm]
    · have hd : d.matches w = false := by
        by_contra hc
        rw [Bool.not_eq_false] at hc
        rw [Entry.not_matches_of_conflicts (h1 e hr) hc] at hm
        exact absurd hm (by decide)
      simp [hd, ih h2 hr]

theorem realEntries_pairwise : realEntries.Pairwise Entry.conflicts := by
  unfold Entry.conflicts
  decide

/-! ## The table in match order -/

theorem closeTable_append (halts before : List Entry) (last : Entry) :
    closeTable halts (before ++ [last])
      = if last.isCatchAll then before ++ (halts ++ [last]) else before ++ last :: (halts ++ [invEntry]) := by
  induction before with
  | nil => cases h : last.isCatchAll <;> simp [closeTable, h]
  | cons e rest ih =>
    cases rest with
    | nil => cases h : last.isCatchAll <;> simp [closeTable, h]
    | cons d more => simp only [List.cons_append, closeTable] at ih ⊢; rw [ih]; split <;> simp

/-- The default table with halt entries (R81). -/
theorem table_of_default {cfg : Config} (h : cfg.patternTable = defaultTable) :
    cfg.table = realEntries ++ (cfg.haltPatterns.map haltEntry ++ [invEntry]) := by
  unfold Config.table defaultTable at *
  rw [h, closeTable_append, if_pos (by decide)]

/-- Every table ends in an entry that matches every word (R63). -/
theorem table_ends_in_catchAll (cfg : Config) : ∃ before last, cfg.table = before ++ [last] ∧ last.isCatchAll = true := by
  unfold Config.table
  rcases List.eq_nil_or_concat cfg.patternTable with h | ⟨before, last, h⟩ <;> rw [h]
  · exact ⟨_, invEntry, rfl, by decide⟩
  · rw [List.concat_eq_append, closeTable_append]
    split
    · exact ⟨before ++ cfg.haltPatterns.map haltEntry, last, by simp, ‹_›⟩
    · exact ⟨before ++ last :: cfg.haltPatterns.map haltEntry, invEntry, by simp, by decide⟩

theorem Entry.matches_of_isCatchAll {e : Entry} (h : e.isCatchAll = true) (w : Word) : e.matches w = true := by
  simp only [Entry.isCatchAll, Bool.and_eq_true, beq_iff_eq] at h
  rw [Entry.matches_iff, h.1, h.2, BitVec.and_zero]

theorem firstMatch_isSome {xs : List Entry} {e : Entry} (he : e ∈ xs) {w : Word} (hm : e.matches w = true) :
    ∃ d, firstMatch xs w = some d := by
  induction xs with
  | nil => cases he
  | cons d rest ih =>
    unfold firstMatch
    split
    · exact ⟨d, rfl⟩
    · rcases List.mem_cons.mp he with rfl | hr
      · contradiction
      · exact ih hr

/-- The scan of a table always answers (R73). -/
theorem firstMatch_table (cfg : Config) (w : Word) : ∃ e, firstMatch cfg.table w = some e := by
  obtain ⟨before, last, h, hc⟩ := table_ends_in_catchAll cfg
  exact firstMatch_isSome (by rw [h]; simp) (Entry.matches_of_isCatchAll hc w)

/-- A word that an entry of 1 to 46 matches selects that entry, whatever stands after them. -/
theorem dispatchWord_of_mem (ys : List Entry) {w : Word} {e : Entry} (he : e ∈ realEntries)
    (hm : w &&& e.mask = e.value) : dispatchWord (realEntries ++ ys) w = e.select w := by
  unfold dispatchWord
  rw [firstMatch_of_mem realEntries_pairwise he ((Entry.matches_iff e w).mpr hm)]

theorem dispatchWord_of_row (ys : List Entry) {w : Word} (k : Nat) {e : Entry} (he : realEntries[k]? = some e)
    (hm : w &&& e.mask = e.value) : dispatchWord (realEntries ++ ys) w = e.select w :=
  dispatchWord_of_mem ys (List.mem_of_getElem? he) hm

theorem decodeWord_of_row {w : Word} (k : Nat) {e : Entry} {i : Instr} (he : realEntries[k]? = some e)
    (hm : w &&& e.mask = e.value) (hs : e.select w = .instr i) : decodeWord w = i := by
  unfold decodeWord defaultTable
  rw [dispatchWord_of_row _ k he hm, hs]

/-- A word that no entry of 1 to 46 matches goes on to the halt entries. -/
theorem dispatchWord_of_none (halts : List Pattern) {w : Word} (h : ∀ e ∈ realEntries, w &&& e.mask ≠ e.value) :
    dispatchWord (realEntries ++ (halts.map haltEntry ++ [invEntry])) w
      = if ∃ p ∈ halts, w &&& p.mask = p.value then .action .halt .N w else .instr (.inv w) := by
  have hn : ∀ e ∈ realEntries, e.matches w = false := fun e he => by
    rw [← Bool.not_eq_true, Entry.matches_iff]; exact h e he
  unfold dispatchWord
  rw [firstMatch_append_of_none hn]
  clear h hn
  induction halts with
  | nil => simp [firstMatch, Entry.matches, invEntry, invRow, Row.entry, Entry.select, Action.instr, Action.tag]
  | cons p rest ih =>
    by_cases hp : w &&& p.mask = p.value
    · simp [firstMatch, Entry.matches, haltEntry, hp, Entry.select, Action.instr]
    · have hm : (haltEntry p).matches w = false := by simp [Entry.matches, haltEntry, hp]
      simp only [List.map_cons, List.cons_append, firstMatch, hm, List.mem_cons, exists_eq_or_imp, hp, false_or]
      simpa using ih

theorem decodeWord_of_none {w : Word} (h : ∀ e ∈ realEntries, w &&& e.mask ≠ e.value) : decodeWord w = .inv w := by
  unfold decodeWord
  rw [show defaultTable = realEntries ++ (([] : List Pattern).map haltEntry ++ [invEntry]) from rfl,
    dispatchWord_of_none [] h]
  simp

/-! ## The conversion of a list of templates -/

theorem convertList_ok {α β : Type} (f : α → Except FatalReason β) {xs : List α} {ys : List β}
    (h : xs.map f = ys.map .ok) : convertList f xs = (ys, none) := by
  induction xs generalizing ys with
  | nil => cases ys with
    | nil => rfl
    | cons => simp at h
  | cons x rest ih => cases ys with
    | nil => simp at h
    | cons y more =>
      simp only [List.map_cons, List.cons.injEq] at h
      simp [convertList, h.1, ih h.2]

end Sys2Proof
end

