-- ==== Sys2Proof/Laws/State.lean ====
section
/-! SUPPORT. One lemma per field per update of the state, and the laws of the register file and the slots. -/

namespace Sys2Proof.Machine

/-! ### `setPc` -/

@[simp] theorem State.setPc_regs (s : State) (v : Word) : (s.setPc v).regs = s.regs := rfl
@[simp] theorem State.setPc_pc (s : State) (v : Word) : (s.setPc v).pc = v := rfl
@[simp] theorem State.setPc_mem (s : State) (v : Word) : (s.setPc v).mem = s.mem := rfl
@[simp] theorem State.setPc_runState (s : State) (v : Word) : (s.setPc v).runState = s.runState := rfl
@[simp] theorem State.setPc_haltRet (s : State) (v : Word) : (s.setPc v).haltRet = s.haltRet := rfl
@[simp] theorem State.setPc_trapPc (s : State) (v : Word) : (s.setPc v).trapPc = s.trapPc := rfl
@[simp] theorem State.setPc_fatalReason (s : State) (v : Word) : (s.setPc v).fatalReason = s.fatalReason := rfl
@[simp] theorem State.setPc_slots (s : State) (v : Word) : (s.setPc v).slots = s.slots := rfl
@[simp] theorem State.setPc_freeList (s : State) (v : Word) : (s.setPc v).freeList = s.freeList := rfl
@[simp] theorem State.setPc_activeList (s : State) (v : Word) : (s.setPc v).activeList = s.activeList := rfl
@[simp] theorem State.setPc_cfg (s : State) (v : Word) : (s.setPc v).cfg = s.cfg := rfl
@[simp] theorem State.setPc_inputs (s : State) (v : Word) : (s.setPc v).inputs = s.inputs := rfl
@[simp] theorem State.setPc_progress (s : State) (v : Word) : (s.setPc v).progress = s.progress := rfl
@[simp] theorem State.setPc_response (s : State) (v : Word) : (s.setPc v).response = s.response := rfl
@[simp] theorem State.setPc_port (s : State) (v : Word) : (s.setPc v).port = s.port := rfl
@[simp] theorem State.setPc_trapPcSet (s : State) (v : Word) : (s.setPc v).trapPcSet = s.trapPcSet := rfl
@[simp] theorem State.setPc_fresh (s : State) (v : Word) : (s.setPc v).fresh = s.fresh := rfl

/-! ### `logCall` -/

@[simp] theorem State.logCall_regs (s : State) (c : PortCall) : (s.logCall c).regs = s.regs := rfl
@[simp] theorem State.logCall_pc (s : State) (c : PortCall) : (s.logCall c).pc = s.pc := rfl
@[simp] theorem State.logCall_mem (s : State) (c : PortCall) : (s.logCall c).mem = s.mem := rfl
@[simp] theorem State.logCall_runState (s : State) (c : PortCall) : (s.logCall c).runState = s.runState := rfl
@[simp] theorem State.logCall_haltRet (s : State) (c : PortCall) : (s.logCall c).haltRet = s.haltRet := rfl
@[simp] theorem State.logCall_trapPc (s : State) (c : PortCall) : (s.logCall c).trapPc = s.trapPc := rfl
@[simp] theorem State.logCall_fatalReason (s : State) (c : PortCall) : (s.logCall c).fatalReason = s.fatalReason := rfl
@[simp] theorem State.logCall_slots (s : State) (c : PortCall) : (s.logCall c).slots = s.slots := rfl
@[simp] theorem State.logCall_freeList (s : State) (c : PortCall) : (s.logCall c).freeList = s.freeList := rfl
@[simp] theorem State.logCall_activeList (s : State) (c : PortCall) : (s.logCall c).activeList = s.activeList := rfl
@[simp] theorem State.logCall_cfg (s : State) (c : PortCall) : (s.logCall c).cfg = s.cfg := rfl
@[simp] theorem State.logCall_inputs (s : State) (c : PortCall) : (s.logCall c).inputs = s.inputs := rfl
@[simp] theorem State.logCall_progress (s : State) (c : PortCall) : (s.logCall c).progress = s.progress := rfl
@[simp] theorem State.logCall_response (s : State) (c : PortCall) : (s.logCall c).response = s.response := rfl
@[simp] theorem State.logCall_port (s : State) (c : PortCall) : (s.logCall c).port = s.port ++ [c] := rfl
@[simp] theorem State.logCall_trapPcSet (s : State) (c : PortCall) : (s.logCall c).trapPcSet = s.trapPcSet := rfl
@[simp] theorem State.logCall_fresh (s : State) (c : PortCall) : (s.logCall c).fresh = s.fresh := rfl

/-! ### `logCalls` -/

@[simp] theorem State.logCalls_regs (s : State) (cs : List PortCall) : (s.logCalls cs).regs = s.regs := rfl
@[simp] theorem State.logCalls_pc (s : State) (cs : List PortCall) : (s.logCalls cs).pc = s.pc := rfl
@[simp] theorem State.logCalls_mem (s : State) (cs : List PortCall) : (s.logCalls cs).mem = s.mem := rfl
@[simp] theorem State.logCalls_runState (s : State) (cs : List PortCall) : (s.logCalls cs).runState = s.runState := rfl
@[simp] theorem State.logCalls_haltRet (s : State) (cs : List PortCall) : (s.logCalls cs).haltRet = s.haltRet := rfl
@[simp] theorem State.logCalls_trapPc (s : State) (cs : List PortCall) : (s.logCalls cs).trapPc = s.trapPc := rfl
@[simp] theorem State.logCalls_fatalReason (s : State) (cs : List PortCall) : (s.logCalls cs).fatalReason = s.fatalReason := rfl
@[simp] theorem State.logCalls_slots (s : State) (cs : List PortCall) : (s.logCalls cs).slots = s.slots := rfl
@[simp] theorem State.logCalls_freeList (s : State) (cs : List PortCall) : (s.logCalls cs).freeList = s.freeList := rfl
@[simp] theorem State.logCalls_activeList (s : State) (cs : List PortCall) : (s.logCalls cs).activeList = s.activeList := rfl
@[simp] theorem State.logCalls_cfg (s : State) (cs : List PortCall) : (s.logCalls cs).cfg = s.cfg := rfl
@[simp] theorem State.logCalls_inputs (s : State) (cs : List PortCall) : (s.logCalls cs).inputs = s.inputs := rfl
@[simp] theorem State.logCalls_progress (s : State) (cs : List PortCall) : (s.logCalls cs).progress = s.progress := rfl
@[simp] theorem State.logCalls_response (s : State) (cs : List PortCall) : (s.logCalls cs).response = s.response := rfl
@[simp] theorem State.logCalls_port (s : State) (cs : List PortCall) : (s.logCalls cs).port = s.port ++ cs := rfl
@[simp] theorem State.logCalls_trapPcSet (s : State) (cs : List PortCall) : (s.logCalls cs).trapPcSet = s.trapPcSet := rfl
@[simp] theorem State.logCalls_fresh (s : State) (cs : List PortCall) : (s.logCalls cs).fresh = s.fresh := rfl

/-! ### `setRunState` -/

@[simp] theorem State.setRunState_regs (s : State) (r : RunState) : (s.setRunState r).regs = s.regs := rfl
@[simp] theorem State.setRunState_pc (s : State) (r : RunState) : (s.setRunState r).pc = s.pc := rfl
@[simp] theorem State.setRunState_mem (s : State) (r : RunState) : (s.setRunState r).mem = s.mem := rfl
@[simp] theorem State.setRunState_runState (s : State) (r : RunState) : (s.setRunState r).runState = r := rfl
@[simp] theorem State.setRunState_haltRet (s : State) (r : RunState) : (s.setRunState r).haltRet = s.haltRet := rfl
@[simp] theorem State.setRunState_trapPc (s : State) (r : RunState) : (s.setRunState r).trapPc = s.trapPc := rfl
@[simp] theorem State.setRunState_fatalReason (s : State) (r : RunState) : (s.setRunState r).fatalReason = s.fatalReason := rfl
@[simp] theorem State.setRunState_slots (s : State) (r : RunState) : (s.setRunState r).slots = s.slots := rfl
@[simp] theorem State.setRunState_freeList (s : State) (r : RunState) : (s.setRunState r).freeList = s.freeList := rfl
@[simp] theorem State.setRunState_activeList (s : State) (r : RunState) : (s.setRunState r).activeList = s.activeList := rfl
@[simp] theorem State.setRunState_cfg (s : State) (r : RunState) : (s.setRunState r).cfg = s.cfg := rfl
@[simp] theorem State.setRunState_inputs (s : State) (r : RunState) : (s.setRunState r).inputs = s.inputs := rfl
@[simp] theorem State.setRunState_progress (s : State) (r : RunState) : (s.setRunState r).progress = s.progress := rfl
@[simp] theorem State.setRunState_response (s : State) (r : RunState) : (s.setRunState r).response = s.response := rfl
@[simp] theorem State.setRunState_port (s : State) (r : RunState) : (s.setRunState r).port = s.port := rfl
@[simp] theorem State.setRunState_trapPcSet (s : State) (r : RunState) : (s.setRunState r).trapPcSet = s.trapPcSet := rfl
@[simp] theorem State.setRunState_fresh (s : State) (r : RunState) : (s.setRunState r).fresh = s.fresh := rfl

/-! ### `respond` -/

@[simp] theorem State.respond_regs (s : State) (r : Response) : (s.respond r).regs = s.regs := rfl
@[simp] theorem State.respond_pc (s : State) (r : Response) : (s.respond r).pc = s.pc := rfl
@[simp] theorem State.respond_mem (s : State) (r : Response) : (s.respond r).mem = s.mem := rfl
@[simp] theorem State.respond_runState (s : State) (r : Response) : (s.respond r).runState = s.runState := rfl
@[simp] theorem State.respond_haltRet (s : State) (r : Response) : (s.respond r).haltRet = s.haltRet := rfl
@[simp] theorem State.respond_trapPc (s : State) (r : Response) : (s.respond r).trapPc = s.trapPc := rfl
@[simp] theorem State.respond_fatalReason (s : State) (r : Response) : (s.respond r).fatalReason = s.fatalReason := rfl
@[simp] theorem State.respond_slots (s : State) (r : Response) : (s.respond r).slots = s.slots := rfl
@[simp] theorem State.respond_freeList (s : State) (r : Response) : (s.respond r).freeList = s.freeList := rfl
@[simp] theorem State.respond_activeList (s : State) (r : Response) : (s.respond r).activeList = s.activeList := rfl
@[simp] theorem State.respond_cfg (s : State) (r : Response) : (s.respond r).cfg = s.cfg := rfl
@[simp] theorem State.respond_inputs (s : State) (r : Response) : (s.respond r).inputs = s.inputs := rfl
@[simp] theorem State.respond_progress (s : State) (r : Response) : (s.respond r).progress = s.progress := rfl
@[simp] theorem State.respond_response (s : State) (r : Response) : (s.respond r).response = some r := rfl
@[simp] theorem State.respond_port (s : State) (r : Response) : (s.respond r).port = s.port := rfl
@[simp] theorem State.respond_trapPcSet (s : State) (r : Response) : (s.respond r).trapPcSet = s.trapPcSet := rfl
@[simp] theorem State.respond_fresh (s : State) (r : Response) : (s.respond r).fresh = s.fresh := rfl

/-! ### `enterFatal` -/

@[simp] theorem State.enterFatal_regs (s : State) (r : FatalReason) : (s.enterFatal r).regs = s.regs := rfl
@[simp] theorem State.enterFatal_pc (s : State) (r : FatalReason) : (s.enterFatal r).pc = s.pc := rfl
@[simp] theorem State.enterFatal_mem (s : State) (r : FatalReason) : (s.enterFatal r).mem = s.mem := rfl
@[simp] theorem State.enterFatal_runState (s : State) (r : FatalReason) : (s.enterFatal r).runState = .fatal := rfl
@[simp] theorem State.enterFatal_haltRet (s : State) (r : FatalReason) : (s.enterFatal r).haltRet = s.haltRet := rfl
@[simp] theorem State.enterFatal_trapPc (s : State) (r : FatalReason) : (s.enterFatal r).trapPc = s.trapPc := rfl
@[simp] theorem State.enterFatal_fatalReason (s : State) (r : FatalReason) : (s.enterFatal r).fatalReason = r := rfl
@[simp] theorem State.enterFatal_slots (s : State) (r : FatalReason) : (s.enterFatal r).slots = s.slots := rfl
@[simp] theorem State.enterFatal_freeList (s : State) (r : FatalReason) : (s.enterFatal r).freeList = s.freeList := rfl
@[simp] theorem State.enterFatal_activeList (s : State) (r : FatalReason) : (s.enterFatal r).activeList = s.activeList := rfl
@[simp] theorem State.enterFatal_cfg (s : State) (r : FatalReason) : (s.enterFatal r).cfg = s.cfg := rfl
@[simp] theorem State.enterFatal_inputs (s : State) (r : FatalReason) : (s.enterFatal r).inputs = s.inputs := rfl
@[simp] theorem State.enterFatal_progress (s : State) (r : FatalReason) : (s.enterFatal r).progress = s.progress := rfl
@[simp] theorem State.enterFatal_response (s : State) (r : FatalReason) : (s.enterFatal r).response = s.response := rfl
@[simp] theorem State.enterFatal_port (s : State) (r : FatalReason) : (s.enterFatal r).port = s.port := rfl
@[simp] theorem State.enterFatal_trapPcSet (s : State) (r : FatalReason) : (s.enterFatal r).trapPcSet = s.trapPcSet := rfl
@[simp] theorem State.enterFatal_fresh (s : State) (r : FatalReason) : (s.enterFatal r).fresh = s.fresh := rfl

/-! ### `setSlot` -/

@[simp] theorem State.setSlot_regs (s : State) (h : SlotIdx) (x : Slot) : (s.setSlot h x).regs = s.regs := rfl
@[simp] theorem State.setSlot_pc (s : State) (h : SlotIdx) (x : Slot) : (s.setSlot h x).pc = s.pc := rfl
@[simp] theorem State.setSlot_mem (s : State) (h : SlotIdx) (x : Slot) : (s.setSlot h x).mem = s.mem := rfl
@[simp] theorem State.setSlot_runState (s : State) (h : SlotIdx) (x : Slot) : (s.setSlot h x).runState = s.runState := rfl
@[simp] theorem State.setSlot_haltRet (s : State) (h : SlotIdx) (x : Slot) : (s.setSlot h x).haltRet = s.haltRet := rfl
@[simp] theorem State.setSlot_trapPc (s : State) (h : SlotIdx) (x : Slot) : (s.setSlot h x).trapPc = s.trapPc := rfl
@[simp] theorem State.setSlot_fatalReason (s : State) (h : SlotIdx) (x : Slot) : (s.setSlot h x).fatalReason = s.fatalReason := rfl
@[simp] theorem State.setSlot_slots (s : State) (h : SlotIdx) (x : Slot) : (s.setSlot h x).slots = s.slots.set h.val x h.isLt := rfl
@[simp] theorem State.setSlot_freeList (s : State) (h : SlotIdx) (x : Slot) : (s.setSlot h x).freeList = s.freeList := rfl
@[simp] theorem State.setSlot_activeList (s : State) (h : SlotIdx) (x : Slot) : (s.setSlot h x).activeList = s.activeList := rfl
@[simp] theorem State.setSlot_cfg (s : State) (h : SlotIdx) (x : Slot) : (s.setSlot h x).cfg = s.cfg := rfl
@[simp] theorem State.setSlot_inputs (s : State) (h : SlotIdx) (x : Slot) : (s.setSlot h x).inputs = s.inputs := rfl
@[simp] theorem State.setSlot_progress (s : State) (h : SlotIdx) (x : Slot) : (s.setSlot h x).progress = s.progress := rfl
@[simp] theorem State.setSlot_response (s : State) (h : SlotIdx) (x : Slot) : (s.setSlot h x).response = s.response := rfl
@[simp] theorem State.setSlot_port (s : State) (h : SlotIdx) (x : Slot) : (s.setSlot h x).port = s.port := rfl
@[simp] theorem State.setSlot_trapPcSet (s : State) (h : SlotIdx) (x : Slot) : (s.setSlot h x).trapPcSet = s.trapPcSet := rfl
@[simp] theorem State.setSlot_fresh (s : State) (h : SlotIdx) (x : Slot) : (s.setSlot h x).fresh = s.fresh := rfl

/-! ### `clearOutputs` -/

@[simp] theorem State.clearOutputs_regs (s : State) : (s.clearOutputs).regs = s.regs := rfl
@[simp] theorem State.clearOutputs_pc (s : State) : (s.clearOutputs).pc = s.pc := rfl
@[simp] theorem State.clearOutputs_mem (s : State) : (s.clearOutputs).mem = s.mem := rfl
@[simp] theorem State.clearOutputs_runState (s : State) : (s.clearOutputs).runState = s.runState := rfl
@[simp] theorem State.clearOutputs_haltRet (s : State) : (s.clearOutputs).haltRet = s.haltRet := rfl
@[simp] theorem State.clearOutputs_trapPc (s : State) : (s.clearOutputs).trapPc = s.trapPc := rfl
@[simp] theorem State.clearOutputs_fatalReason (s : State) : (s.clearOutputs).fatalReason = s.fatalReason := rfl
@[simp] theorem State.clearOutputs_slots (s : State) : (s.clearOutputs).slots = s.slots := rfl
@[simp] theorem State.clearOutputs_freeList (s : State) : (s.clearOutputs).freeList = s.freeList := rfl
@[simp] theorem State.clearOutputs_activeList (s : State) : (s.clearOutputs).activeList = s.activeList := rfl
@[simp] theorem State.clearOutputs_cfg (s : State) : (s.clearOutputs).cfg = s.cfg := rfl
@[simp] theorem State.clearOutputs_inputs (s : State) : (s.clearOutputs).inputs = s.inputs := rfl
@[simp] theorem State.clearOutputs_progress (s : State) : (s.clearOutputs).progress = s.progress := rfl
@[simp] theorem State.clearOutputs_response (s : State) : (s.clearOutputs).response = none := rfl
@[simp] theorem State.clearOutputs_port (s : State) : (s.clearOutputs).port = [] := rfl
@[simp] theorem State.clearOutputs_trapPcSet (s : State) : (s.clearOutputs).trapPcSet = s.trapPcSet := rfl
@[simp] theorem State.clearOutputs_fresh (s : State) : (s.clearOutputs).fresh = s.fresh := rfl

/-! ### `countStep` -/

@[simp] theorem countStep_regs (s : State) : (countStep s).regs = s.regs := rfl
@[simp] theorem countStep_pc (s : State) : (countStep s).pc = s.pc := rfl
@[simp] theorem countStep_mem (s : State) : (countStep s).mem = s.mem := rfl
@[simp] theorem countStep_runState (s : State) : (countStep s).runState = s.runState := rfl
@[simp] theorem countStep_haltRet (s : State) : (countStep s).haltRet = s.haltRet := rfl
@[simp] theorem countStep_trapPc (s : State) : (countStep s).trapPc = s.trapPc := rfl
@[simp] theorem countStep_fatalReason (s : State) : (countStep s).fatalReason = s.fatalReason := rfl
@[simp] theorem countStep_slots (s : State) : (countStep s).slots = s.slots := rfl
@[simp] theorem countStep_freeList (s : State) : (countStep s).freeList = s.freeList := rfl
@[simp] theorem countStep_activeList (s : State) : (countStep s).activeList = s.activeList := rfl
@[simp] theorem countStep_cfg (s : State) : (countStep s).cfg = s.cfg := rfl
@[simp] theorem countStep_inputs (s : State) : (countStep s).inputs = s.inputs := rfl
@[simp] theorem countStep_progress (s : State) : (countStep s).progress = { left := s.progress.left.map (· - 1), done := s.progress.done + 1 } := rfl
@[simp] theorem countStep_response (s : State) : (countStep s).response = s.response := rfl
@[simp] theorem countStep_port (s : State) : (countStep s).port = s.port := rfl
@[simp] theorem countStep_trapPcSet (s : State) : (countStep s).trapPcSet = s.trapPcSet := rfl
@[simp] theorem countStep_fresh (s : State) : (countStep s).fresh = s.fresh := rfl

/-! ### `fetched` -/

@[simp] theorem fetched_regs (s : State) : (fetched s).regs = s.regs := rfl
@[simp] theorem fetched_pc (s : State) : (fetched s).pc = s.pc := rfl
@[simp] theorem fetched_mem (s : State) : (fetched s).mem = s.mem := rfl
@[simp] theorem fetched_runState (s : State) : (fetched s).runState = s.runState := rfl
@[simp] theorem fetched_haltRet (s : State) : (fetched s).haltRet = s.haltRet := rfl
@[simp] theorem fetched_trapPc (s : State) : (fetched s).trapPc = s.trapPc := rfl
@[simp] theorem fetched_fatalReason (s : State) : (fetched s).fatalReason = s.fatalReason := rfl
@[simp] theorem fetched_slots (s : State) : (fetched s).slots = s.slots := rfl
@[simp] theorem fetched_freeList (s : State) : (fetched s).freeList = s.freeList := rfl
@[simp] theorem fetched_activeList (s : State) : (fetched s).activeList = s.activeList := rfl
@[simp] theorem fetched_cfg (s : State) : (fetched s).cfg = s.cfg := rfl
@[simp] theorem fetched_inputs (s : State) : (fetched s).inputs = s.inputs := rfl
@[simp] theorem fetched_progress (s : State) : (fetched s).progress = s.progress := rfl
@[simp] theorem fetched_response (s : State) : (fetched s).response = s.response := rfl
@[simp] theorem fetched_port (s : State) : (fetched s).port = s.port ++ [.read s.pc .four] := rfl
@[simp] theorem fetched_trapPcSet (s : State) : (fetched s).trapPcSet = s.trapPcSet := rfl
@[simp] theorem fetched_fresh (s : State) : (fetched s).fresh = s.fresh := rfl

/-! ### `endRun` -/

@[simp] theorem endRun_regs (cs : List Change) (s : State) : (endRun cs s).regs = s.regs := rfl
@[simp] theorem endRun_pc (cs : List Change) (s : State) : (endRun cs s).pc = s.pc := rfl
@[simp] theorem endRun_mem (cs : List Change) (s : State) : (endRun cs s).mem = s.mem := rfl
@[simp] theorem endRun_runState (cs : List Change) (s : State) : (endRun cs s).runState = s.runState := rfl
@[simp] theorem endRun_haltRet (cs : List Change) (s : State) : (endRun cs s).haltRet = s.haltRet := rfl
@[simp] theorem endRun_trapPc (cs : List Change) (s : State) : (endRun cs s).trapPc = s.trapPc := rfl
@[simp] theorem endRun_fatalReason (cs : List Change) (s : State) : (endRun cs s).fatalReason = s.fatalReason := rfl
@[simp] theorem endRun_slots (cs : List Change) (s : State) : (endRun cs s).slots = s.slots := rfl
@[simp] theorem endRun_freeList (cs : List Change) (s : State) : (endRun cs s).freeList = s.freeList := rfl
@[simp] theorem endRun_activeList (cs : List Change) (s : State) : (endRun cs s).activeList = s.activeList := rfl
@[simp] theorem endRun_cfg (cs : List Change) (s : State) : (endRun cs s).cfg = s.cfg := rfl
@[simp] theorem endRun_inputs (cs : List Change) (s : State) : (endRun cs s).inputs = s.inputs := rfl
@[simp] theorem endRun_progress (cs : List Change) (s : State) : (endRun cs s).progress = s.progress := rfl
@[simp] theorem endRun_response (cs : List Change) (s : State) : (endRun cs s).response = some (.runEnded s.progress.done cs) := rfl
@[simp] theorem endRun_port (cs : List Change) (s : State) : (endRun cs s).port = s.port := rfl
@[simp] theorem endRun_trapPcSet (cs : List Change) (s : State) : (endRun cs s).trapPcSet = s.trapPcSet := rfl
@[simp] theorem endRun_fresh (cs : List Change) (s : State) : (endRun cs s).fresh = s.fresh := rfl

/-! ### `writeReg`: every field but `regs` -/

@[simp] theorem State.writeReg_pc (s : State) (i : RegIdx) (v : Word) : (s.writeReg i v).pc = s.pc := by
  unfold State.writeReg; split <;> rfl
@[simp] theorem State.writeReg_mem (s : State) (i : RegIdx) (v : Word) : (s.writeReg i v).mem = s.mem := by
  unfold State.writeReg; split <;> rfl
@[simp] theorem State.writeReg_runState (s : State) (i : RegIdx) (v : Word) : (s.writeReg i v).runState = s.runState := by
  unfold State.writeReg; split <;> rfl
@[simp] theorem State.writeReg_haltRet (s : State) (i : RegIdx) (v : Word) : (s.writeReg i v).haltRet = s.haltRet := by
  unfold State.writeReg; split <;> rfl
@[simp] theorem State.writeReg_trapPc (s : State) (i : RegIdx) (v : Word) : (s.writeReg i v).trapPc = s.trapPc := by
  unfold State.writeReg; split <;> rfl
@[simp] theorem State.writeReg_fatalReason (s : State) (i : RegIdx) (v : Word) : (s.writeReg i v).fatalReason = s.fatalReason := by
  unfold State.writeReg; split <;> rfl
@[simp] theorem State.writeReg_slots (s : State) (i : RegIdx) (v : Word) : (s.writeReg i v).slots = s.slots := by
  unfold State.writeReg; split <;> rfl
@[simp] theorem State.writeReg_freeList (s : State) (i : RegIdx) (v : Word) : (s.writeReg i v).freeList = s.freeList := by
  unfold State.writeReg; split <;> rfl
@[simp] theorem State.writeReg_activeList (s : State) (i : RegIdx) (v : Word) : (s.writeReg i v).activeList = s.activeList := by
  unfold State.writeReg; split <;> rfl
@[simp] theorem State.writeReg_cfg (s : State) (i : RegIdx) (v : Word) : (s.writeReg i v).cfg = s.cfg := by
  unfold State.writeReg; split <;> rfl
@[simp] theorem State.writeReg_inputs (s : State) (i : RegIdx) (v : Word) : (s.writeReg i v).inputs = s.inputs := by
  unfold State.writeReg; split <;> rfl
@[simp] theorem State.writeReg_progress (s : State) (i : RegIdx) (v : Word) : (s.writeReg i v).progress = s.progress := by
  unfold State.writeReg; split <;> rfl
@[simp] theorem State.writeReg_response (s : State) (i : RegIdx) (v : Word) : (s.writeReg i v).response = s.response := by
  unfold State.writeReg; split <;> rfl
@[simp] theorem State.writeReg_port (s : State) (i : RegIdx) (v : Word) : (s.writeReg i v).port = s.port := by
  unfold State.writeReg; split <;> rfl
@[simp] theorem State.writeReg_trapPcSet (s : State) (i : RegIdx) (v : Word) : (s.writeReg i v).trapPcSet = s.trapPcSet := by
  unfold State.writeReg; split <;> rfl
@[simp] theorem State.writeReg_fresh (s : State) (i : RegIdx) (v : Word) : (s.writeReg i v).fresh = s.fresh := by
  unfold State.writeReg; split <;> rfl

/-! ### `takeRaise`: the fields no trap writes, and what each raise writes -/

@[simp] theorem takeRaise_regs (s : State) (r : Raise) : (takeRaise s r).regs = s.regs := by cases r <;> rfl
@[simp] theorem takeRaise_mem (s : State) (r : Raise) : (takeRaise s r).mem = s.mem := by cases r <;> rfl
@[simp] theorem takeRaise_slots (s : State) (r : Raise) : (takeRaise s r).slots = s.slots := by cases r <;> rfl
@[simp] theorem takeRaise_freeList (s : State) (r : Raise) : (takeRaise s r).freeList = s.freeList := by cases r <;> rfl
@[simp] theorem takeRaise_activeList (s : State) (r : Raise) : (takeRaise s r).activeList = s.activeList := by cases r <;> rfl
@[simp] theorem takeRaise_cfg (s : State) (r : Raise) : (takeRaise s r).cfg = s.cfg := by cases r <;> rfl
@[simp] theorem takeRaise_inputs (s : State) (r : Raise) : (takeRaise s r).inputs = s.inputs := by cases r <;> rfl
@[simp] theorem takeRaise_progress (s : State) (r : Raise) : (takeRaise s r).progress = s.progress := by cases r <;> rfl
@[simp] theorem takeRaise_response (s : State) (r : Raise) : (takeRaise s r).response = s.response := by cases r <;> rfl
@[simp] theorem takeRaise_port (s : State) (r : Raise) : (takeRaise s r).port = s.port := by cases r <;> rfl
@[simp] theorem takeRaise_pc (s : State) (r : Raise) : (takeRaise s r).pc = s.snpc := by cases r <;> rfl
@[simp] theorem takeRaise_invalid_runState (s : State) : (takeRaise s .invalidInstruction).runState = .trappedBad := rfl
@[simp] theorem takeRaise_invalid_trapPc (s : State) : (takeRaise s .invalidInstruction).trapPc = s.pc := rfl
@[simp] theorem takeRaise_debugTrap_runState (s : State) (v : Word) : (takeRaise s (.debugTrap v)).runState = .trappedOk := rfl
@[simp] theorem takeRaise_debugTrap_haltRet (s : State) (v : Word) : (takeRaise s (.debugTrap v)).haltRet = v := rfl
@[simp] theorem takeRaise_debugTrap_trapPc (s : State) (v : Word) : (takeRaise s (.debugTrap v)).trapPc = s.pc := rfl
@[simp] theorem takeRaise_halt_runState (s : State) (c : Word) : (takeRaise s (.halt c)).runState = .halted := rfl
@[simp] theorem takeRaise_halt_haltRet (s : State) (c : Word) : (takeRaise s (.halt c)).haltRet = c := rfl
@[simp] theorem takeRaise_halt_trapPc (s : State) (c : Word) : (takeRaise s (.halt c)).trapPc = s.pc := rfl
@[simp] theorem takeRaise_fatal_runState (s : State) (r : FatalReason) : (takeRaise s (.fatal r)).runState = .fatal := rfl
@[simp] theorem takeRaise_fatal_fatalReason (s : State) (r : FatalReason) : (takeRaise s (.fatal r)).fatalReason = r := rfl

/-! ### `resetCommand`: the fields R26 gives a value, and those reset leaves alone (R220) -/

@[simp] theorem resetCommand_pc (s : State) : (resetCommand s).pc = s.cfg.resetVector := by
  unfold resetCommand State.resetWith; rfl
@[simp] theorem resetCommand_mem (s : State) : (resetCommand s).mem = s.mem := by
  unfold resetCommand State.resetWith; rfl
@[simp] theorem resetCommand_runState (s : State) : (resetCommand s).runState = .stopped := by
  unfold resetCommand State.resetWith; rfl
@[simp] theorem resetCommand_freeList (s : State) : (resetCommand s).freeList = List.finRange numSlots := by
  unfold resetCommand State.resetWith; rfl
@[simp] theorem resetCommand_activeList (s : State) : (resetCommand s).activeList = [] := by
  unfold resetCommand State.resetWith; rfl
@[simp] theorem resetCommand_cfg (s : State) : (resetCommand s).cfg = s.cfg := by
  unfold resetCommand State.resetWith; rfl
@[simp] theorem resetCommand_inputs (s : State) : (resetCommand s).inputs = s.inputs := by
  unfold resetCommand State.resetWith; rfl
@[simp] theorem resetCommand_trapPcSet (s : State) : (resetCommand s).trapPcSet = false := by
  unfold resetCommand State.resetWith; rfl
@[simp] theorem resetCommand_expr (s : State) (h : SlotIdx) : ((resetCommand s).slot h).expr = [] := by
  unfold resetCommand State.resetWith State.slot
  simp

/-! ### Reads that depend on one field -/

theorem State.readReg_congr {s t : State} (h : s.regs = t.regs) (i : RegIdx) : s.readReg i = t.readReg i := by
  unfold State.readReg; simp only [h]

theorem State.memRead_congr {s t : State} (hc : s.cfg = t.cfg) (hm : s.mem = t.mem) (a : Word) (w : Width) :
    s.memRead a w = t.memRead a w := by
  unfold State.memRead State.admitsAccess; rw [hc, hm]

/-! ### Reads over updates that leave their field alone -/

/-- R6, R12: what a register holds after it has been written; register 0 keeps reading as zero. -/
@[simp] theorem State.readReg_writeReg_self (s : State) (rd : RegIdx) (v : Word) :
    (s.writeReg rd v).readReg rd = if rd = 0#5 then 0#32 else v := by
  unfold State.readReg State.writeReg
  split <;> simp

/-- A write to one register leaves every other register alone. -/
theorem State.readReg_writeReg_other (s : State) {rd r : RegIdx} (v : Word) (h : r ≠ rd) :
    (s.writeReg rd v).readReg r = s.readReg r := by
  unfold State.readReg State.writeReg
  split
  · rfl
  · rename_i hr
    split
    · rfl
    · rename_i hd
      have h1 : r.toNat ≠ rd.toNat := fun e => h (BitVec.eq_of_toNat_eq e)
      have h2 : r.toNat ≠ 0 := fun e => hr (BitVec.eq_of_toNat_eq e)
      have h3 : rd.toNat ≠ 0 := fun e => hd (BitVec.eq_of_toNat_eq e)
      simp only
      rw [Vector.getElem_set_ne]
      omega

@[simp] theorem State.setPc_readReg (s : State) (v : Word) (i : RegIdx) : (s.setPc v).readReg i = s.readReg i := rfl
@[simp] theorem State.setPc_memRead (s : State) (v : Word) (a : Word) (w : Width) : (s.setPc v).memRead a w = s.memRead a w := rfl
@[simp] theorem State.logCall_readReg (s : State) (c : PortCall) (i : RegIdx) : (s.logCall c).readReg i = s.readReg i := rfl
@[simp] theorem State.logCall_memRead (s : State) (c : PortCall) (a : Word) (w : Width) : (s.logCall c).memRead a w = s.memRead a w := rfl
@[simp] theorem State.logCalls_readReg (s : State) (cs : List PortCall) (i : RegIdx) : (s.logCalls cs).readReg i = s.readReg i := rfl
@[simp] theorem State.logCalls_memRead (s : State) (cs : List PortCall) (a : Word) (w : Width) : (s.logCalls cs).memRead a w = s.memRead a w := rfl
@[simp] theorem State.setRunState_readReg (s : State) (r : RunState) (i : RegIdx) : (s.setRunState r).readReg i = s.readReg i := rfl
@[simp] theorem State.setRunState_memRead (s : State) (r : RunState) (a : Word) (w : Width) : (s.setRunState r).memRead a w = s.memRead a w := rfl
@[simp] theorem State.respond_readReg (s : State) (r : Response) (i : RegIdx) : (s.respond r).readReg i = s.readReg i := rfl
@[simp] theorem State.respond_memRead (s : State) (r : Response) (a : Word) (w : Width) : (s.respond r).memRead a w = s.memRead a w := rfl
@[simp] theorem State.enterFatal_readReg (s : State) (r : FatalReason) (i : RegIdx) : (s.enterFatal r).readReg i = s.readReg i := rfl
@[simp] theorem State.enterFatal_memRead (s : State) (r : FatalReason) (a : Word) (w : Width) : (s.enterFatal r).memRead a w = s.memRead a w := rfl
@[simp] theorem State.setSlot_readReg (s : State) (h : SlotIdx) (x : Slot) (i : RegIdx) : (s.setSlot h x).readReg i = s.readReg i := rfl
@[simp] theorem State.setSlot_memRead (s : State) (h : SlotIdx) (x : Slot) (a : Word) (w : Width) : (s.setSlot h x).memRead a w = s.memRead a w := rfl
@[simp] theorem State.clearOutputs_readReg (s : State) (i : RegIdx) : (s.clearOutputs).readReg i = s.readReg i := rfl
@[simp] theorem State.clearOutputs_memRead (s : State) (a : Word) (w : Width) : (s.clearOutputs).memRead a w = s.memRead a w := rfl
@[simp] theorem countStep_readReg (s : State) (i : RegIdx) : (countStep s).readReg i = s.readReg i := rfl
@[simp] theorem countStep_memRead (s : State) (a : Word) (w : Width) : (countStep s).memRead a w = s.memRead a w := rfl
@[simp] theorem fetched_readReg (s : State) (i : RegIdx) : (fetched s).readReg i = s.readReg i := rfl
@[simp] theorem fetched_memRead (s : State) (a : Word) (w : Width) : (fetched s).memRead a w = s.memRead a w := rfl
@[simp] theorem endRun_readReg (cs : List Change) (s : State) (i : RegIdx) : (endRun cs s).readReg i = s.readReg i := rfl
@[simp] theorem endRun_memRead (cs : List Change) (s : State) (a : Word) (w : Width) : (endRun cs s).memRead a w = s.memRead a w := rfl
@[simp] theorem takeRaise_readReg (s : State) (r : Raise) (i : RegIdx) : (takeRaise s r).readReg i = s.readReg i := by
  cases r <;> rfl
@[simp] theorem State.writeReg_memRead (s : State) (i : RegIdx) (v : Word) (a : Word) (w : Width) :
    (s.writeReg i v).memRead a w = s.memRead a w := State.memRead_congr (by simp) (by simp) a w

/-! ### The register file (R6, R12) -/

/-- R12: "register index 0 always reads as the value zero". -/
@[simp] theorem State.readReg_zero (s : State) : s.readReg 0#5 = 0#32 := rfl

/-- R12: "any write to register 0 by an action is discarded". -/
@[simp] theorem State.writeReg_zero (s : State) (v : Word) : s.writeReg 0#5 v = s := rfl

theorem State.readReg_writeReg (s : State) (i r : RegIdx) (v : Word) :
    (s.writeReg i v).readReg r = if r = i ∧ r ≠ 0#5 then v else s.readReg r := by
  unfold State.writeReg State.readReg
  by_cases hr : r = 0#5
  · simp [hr]
  by_cases hi : i = 0#5
  · have : r ≠ i := fun h => hr (h.trans hi)
    simp [hi, hr]
  by_cases h : r = i
  · subst h; simp [hr]
  · have hne : i.toNat - 1 ≠ r.toNat - 1 := by
      intro heq
      have h1 : i.toNat ≠ 0 := fun h0 => hi (BitVec.eq_of_toNat_eq (by simpa using h0))
      have h2 : r.toNat ≠ 0 := fun h0 => hr (BitVec.eq_of_toNat_eq (by simpa using h0))
      exact h (BitVec.eq_of_toNat_eq (by omega))
    simp [hr, hi, h, hne]

/-! ### The slots over updates that leave them alone -/

@[simp] theorem State.setPc_slot (s : State) (v : Word) (k : SlotIdx) : (s.setPc v).slot k = s.slot k := rfl
@[simp] theorem State.logCall_slot (s : State) (c : PortCall) (k : SlotIdx) : (s.logCall c).slot k = s.slot k := rfl
@[simp] theorem State.logCalls_slot (s : State) (cs : List PortCall) (k : SlotIdx) : (s.logCalls cs).slot k = s.slot k := rfl
@[simp] theorem State.setRunState_slot (s : State) (r : RunState) (k : SlotIdx) : (s.setRunState r).slot k = s.slot k := rfl
@[simp] theorem State.respond_slot (s : State) (r : Response) (k : SlotIdx) : (s.respond r).slot k = s.slot k := rfl
@[simp] theorem State.enterFatal_slot (s : State) (r : FatalReason) (k : SlotIdx) : (s.enterFatal r).slot k = s.slot k := rfl
@[simp] theorem State.clearOutputs_slot (s : State) (k : SlotIdx) : s.clearOutputs.slot k = s.slot k := rfl
@[simp] theorem countStep_slot (s : State) (k : SlotIdx) : (countStep s).slot k = s.slot k := rfl
@[simp] theorem fetched_slot (s : State) (k : SlotIdx) : (fetched s).slot k = s.slot k := rfl
@[simp] theorem endRun_slot (cs : List Change) (s : State) (k : SlotIdx) : (endRun cs s).slot k = s.slot k := rfl

/-! ### The pool's slots -/

theorem State.slot_congr {s t : State} (h : s.slots = t.slots) (k : SlotIdx) : s.slot k = t.slot k := by
  unfold State.slot; simp only [h]

theorem State.slot_setSlot (s : State) (h k : SlotIdx) (x : Slot) :
    (s.setSlot h x).slot k = if k = h then x else s.slot k := by
  unfold State.setSlot State.slot
  by_cases hk : k = h
  · subst hk; simp
  · have : h.val ≠ k.val := fun e => hk (Fin.ext e.symm)
    simp [this, hk]

end Sys2Proof.Machine
end

