-- ==== Sys2Proof/Laws/Memory.lean ====
section
/-! SUPPORT. The laws of the byte map: a read after a write, and that every memory operation keeps the canonical form. -/

namespace Sys2Proof.Machine

/-- Every address of the map lies above a bound. -/
theorem Memory.get_below (m : Memory) (k : Nat) (h : ∀ c ∈ m, k < c.1) : Memory.get m k = Config.unlistedByte := by
  induction m with
  | nil => rfl
  | cons c rest ih =>
    have hc := h c (by simp)
    simp only [Memory.get]
    rw [if_neg (by omega)]
    exact ih fun d hd => h d (by simp [hd])

/-- Read after write on the byte map. -/
theorem Memory.get_put (m : Memory) (hm : m.Pairwise (fun c d => c.1 < d.1)) (k : Nat) (b : Byte) (j : Nat) :
    Memory.get (Memory.put m k b) j = if j = k then b else Memory.get m j := by
  induction m with
  | nil =>
    by_cases hb : b = Config.unlistedByte
    · by_cases hj : j = k <;> simp [Memory.put, Memory.get, hb, hj]
    · by_cases hj : j = k
      · simp [Memory.put, Memory.get, hb, hj]
      · have : ¬ k = j := fun h => hj h.symm
        simp [Memory.put, Memory.get, hb, hj, this]
  | cons c rest ih =>
    obtain ⟨a, v⟩ := c
    have hrest := ih (List.pairwise_cons.mp hm).2
    have habove : ∀ d ∈ rest, a < d.1 := (List.pairwise_cons.mp hm).1
    simp only [Memory.put]
    by_cases h1 : a < k
    · simp only [h1, if_true, Memory.get, hrest]
      by_cases hj : j = k
      · subst hj; simp; omega
      · simp [hj]
    · simp only [h1, if_false]
      by_cases h2 : a = k
      · subst h2
        by_cases hb : b = Config.unlistedByte
        · simp only [hb, if_true]
          by_cases hj : j = a
          · subst hj; simp [Memory.get_below rest j habove]
          · have : ¬ a = j := fun h => hj h.symm
            simp [Memory.get, hj, this]
        · simp only [hb, if_false, if_true, Memory.get]
          by_cases hj : j = a
          · simp [hj]
          · have : ¬ a = j := fun h => hj h.symm
            simp [hj, this]
      · simp only [h2, if_false]
        by_cases hb : b = Config.unlistedByte
        · simp only [hb, if_true]
          by_cases hj : j = k
          · subst hj
            simp only [if_true]
            apply Memory.get_below
            intro d hd
            rcases List.mem_cons.mp hd with rfl | hd
            · simp; omega
            · have := habove d hd; omega
          · simp [hj]
        · simp only [hb, if_false]
          by_cases hj : j = k
          · simp [Memory.get, hj]
          · have : ¬ k = j := fun h => hj h.symm
            simp [Memory.get, hj, this]

theorem Memory.mem_put {m : Memory} {k : Nat} {b : Byte} {c : Host.Cell} (h : c ∈ Memory.put m k b) :
    c ∈ m ∨ (c = (k, b) ∧ b ≠ Config.unlistedByte) := by
  induction m with
  | nil =>
    by_cases hb : b = Config.unlistedByte <;> simp [Memory.put, hb] at h
    exact .inr ⟨h, hb⟩
  | cons d rest ih =>
    obtain ⟨a, v⟩ := d
    simp only [Memory.put] at h
    split at h
    · rcases List.mem_cons.mp h with rfl | h
      · simp
      · rcases ih h with h | h
        · exact .inl (by simp [h])
        · exact .inr h
    · split at h
      · split at h
        · exact .inl (by simp [h])
        · rcases List.mem_cons.mp h with rfl | h
          · exact .inr ⟨rfl, ‹_›⟩
          · exact .inl (by simp [h])
      · split at h
        · exact .inl h
        · rcases List.mem_cons.mp h with rfl | h
          · exact .inr ⟨rfl, ‹_›⟩
          · exact .inl h

theorem Memory.pairwise_put (m : Memory) (hm : m.Pairwise (fun c d => c.1 < d.1)) (k : Nat) (b : Byte) :
    (Memory.put m k b).Pairwise (fun c d => c.1 < d.1) := by
  induction m with
  | nil => by_cases hb : b = Config.unlistedByte <;> simp [Memory.put, hb]
  | cons d rest ih =>
    obtain ⟨a, v⟩ := d
    obtain ⟨h1, h2⟩ := List.pairwise_cons.mp hm
    simp only [Memory.put]
    split
    · refine List.pairwise_cons.mpr ⟨fun c hc => ?_, ih h2⟩
      rcases Memory.mem_put hc with hc | ⟨rfl, _⟩
      · exact h1 c hc
      · assumption
    · split
      · rename_i _ heq
        split
        · exact h2
        · exact List.pairwise_cons.mpr ⟨fun c hc => heq ▸ h1 c hc, h2⟩
      · split
        · exact hm
        · refine List.pairwise_cons.mpr ⟨fun c hc => ?_, hm⟩
          rcases List.mem_cons.mp hc with rfl | hc
          · simp only; omega
          · have := h1 c hc
            simp only at this ⊢
            omega

/-- A write to a 32-bit address keeps the canonical form. -/
theorem Memory.wf_setByte {m : Memory} (hm : Memory.wf m) (a : Word) (b : Byte) : Memory.wf (Memory.setByte m a b) := by
  refine ⟨Memory.pairwise_put m hm.1 _ _, fun c hc => ?_⟩
  rcases Memory.mem_put hc with h | ⟨rfl, hb⟩
  · exact hm.2 c h
  · exact ⟨a.isLt, hb⟩

theorem Memory.wf_write {m : Memory} (hm : Memory.wf m) (a v : Word) (w : Width) : Memory.wf (Memory.write m a v w) := by
  cases w <;> simp only [Memory.write]
  · exact Memory.wf_setByte hm _ _
  · exact Memory.wf_setByte (Memory.wf_setByte hm _ _) _ _
  · exact Memory.wf_setByte (Memory.wf_setByte (Memory.wf_setByte (Memory.wf_setByte hm _ _) _ _) _ _) _ _

/-- Read after write of one byte. -/
theorem Memory.byte_setByte {m : Memory} (hm : Memory.wf m) (a : Word) (b : Byte) (x : Word) :
    Memory.byte (Memory.setByte m a b) x = if x = a then b else Memory.byte m x := by
  unfold Memory.byte Memory.setByte
  rw [Memory.get_put m hm.1]
  by_cases h : x = a
  · simp [h]
  · rw [if_neg h, if_neg fun e => h (BitVec.eq_of_toNat_eq e)]

/-- A write leaves every byte outside the access alone. -/
theorem Memory.byte_write_other {m : Memory} (hm : Memory.wf m) (a v : Word) (w : Width) (x : Word)
    (hx : x ∉ w.addrs a) : Memory.byte (Memory.write m a v w) x = Memory.byte m x := by
  have w1 := fun b => Memory.wf_setByte hm a b
  cases w <;> simp [Width.addrs] at hx <;> simp only [Memory.write]
  · rw [Memory.byte_setByte hm, if_neg hx]
  · rw [Memory.byte_setByte (w1 _), if_neg hx.2, Memory.byte_setByte hm, if_neg hx.1]
  · rw [Memory.byte_setByte (Memory.wf_setByte (Memory.wf_setByte (w1 _) _ _) _ _), if_neg hx.2.2.2,
      Memory.byte_setByte (Memory.wf_setByte (w1 _) _ _), if_neg hx.2.2.1,
      Memory.byte_setByte (w1 _), if_neg hx.2.1, Memory.byte_setByte hm, if_neg hx.1]

/-- The bytes of the access are bits of the value, low byte first (R32). -/
theorem Memory.byte_write_four {m : Memory} (hm : Memory.wf m) (a v : Word) :
    Memory.byte (Memory.write m a v .four) a = v.extractLsb' 0 8
    ∧ Memory.byte (Memory.write m a v .four) (a + 1#32) = v.extractLsb' 8 8
    ∧ Memory.byte (Memory.write m a v .four) (a + 2#32) = v.extractLsb' 16 8
    ∧ Memory.byte (Memory.write m a v .four) (a + 3#32) = v.extractLsb' 24 8 := by
  have w1 := Memory.wf_setByte hm a (v.extractLsb' 0 8)
  have w2 := Memory.wf_setByte w1 (a + 1#32) (v.extractLsb' 8 8)
  have w3 := Memory.wf_setByte w2 (a + 2#32) (v.extractLsb' 16 8)
  simp only [Memory.write, Memory.byte_setByte hm, Memory.byte_setByte w1, Memory.byte_setByte w2,
    Memory.byte_setByte w3]
  refine ⟨?_, ?_, ?_, ?_⟩ <;> simp

end Sys2Proof.Machine
end

