-- ==== Sys2Proof/Laws/Exec.lean ====
section
/-! SUPPORT. What the shared operations of the meanings can do, and what every instruction leaves unchanged. -/

namespace Sys2Proof.Machine

/-! ## The shared operations -/

/-- The end of an action that computes a register. -/
theorem writeAndAdvance_eq (rd : RegIdx) (v : Word) (s : State) :
    writeAndAdvance rd v s = .next ((s.writeReg rd v).setPc s.snpc) := rfl

theorem ltSigned_iff (a b : Word) : ltSigned a b = true ↔ a.toInt < b.toInt := by simp [ltSigned]

theorem ltUnsigned_iff (a b : Word) : ltUnsigned a b = true ↔ a.toNat < b.toNat := by simp [ltUnsigned]

theorem and_ff_eq_truncate (v : Word) : v &&& 0xff#32 = Width.one.truncate v := by
  apply BitVec.eq_of_toNat_eq
  simp only [Width.truncate, BitVec.toNat_and, BitVec.toNat_setWidth, BitVec.toNat_ofNat]
  rw [show (255 % 2 ^ 32 : Nat) = 2 ^ 8 - 1 from rfl, Nat.and_two_pow_sub_one_eq_mod]
  omega

theorem and_ffff_eq_truncate (v : Word) : v &&& 0xffff#32 = Width.two.truncate v := by
  apply BitVec.eq_of_toNat_eq
  simp only [Width.truncate, BitVec.toNat_and, BitVec.toNat_setWidth, BitVec.toNat_ofNat]
  rw [show (65535 % 2 ^ 32 : Nat) = 2 ^ 16 - 1 from rfl, Nat.and_two_pow_sub_one_eq_mod]
  omega

/-- Both policies of the rejection (R96). -/
theorem rejectShift_cases (s : State) :
    (s.cfg.shamt5Policy = .invalid ∧ rejectShift s = .next (takeRaise s .invalidInstruction))
      ∨ (s.cfg.shamt5Policy = .nop ∧ rejectShift s = .next (s.setPc s.snpc)) := by
  unfold rejectShift
  cases s.cfg.shamt5Policy
  · exact .inl ⟨rfl, rfl⟩
  · exact .inr ⟨rfl, rfl⟩

/-- A load completes, or the port faults. -/
theorem loadFrom_cases (w : Width) (ext : Word → Word) (o : Operands) (s : State) :
    (s.admitsAccess o.address w = true
        ∧ loadFrom w ext o s = .next (((s.logCall (.read o.address w)).writeReg o.rd
            (ext (Memory.read s.mem o.address w))).setPc s.snpc))
      ∨ (s.admitsAccess o.address w = false
        ∧ loadFrom w ext o s = .next (takeRaise (s.logCall (.read o.address w)) (.fatal .memFault))) := by
  unfold loadFrom State.memRead
  have hc : (s.logCall (.read o.address w)).admitsAccess o.address w = s.admitsAccess o.address w := rfl
  cases h : s.admitsAccess o.address w
  · right; simp [hc, h]
  · left; simp [hc, h, writeAndAdvance, State.snpc]

/-- A store completes, or the port faults. -/
theorem storeTo_cases (w : Width) (o : Operands) (s : State) :
    (s.admitsAccess o.address w = true
        ∧ storeTo w o s = .next { s with
            mem := Memory.write s.mem o.address o.src2 w
            port := s.port ++ [.write o.address w (w.truncate o.src2)]
            pc := s.snpc })
      ∨ (s.admitsAccess o.address w = false
        ∧ storeTo w o s = .next (takeRaise (s.logCall (.write o.address w (w.truncate o.src2)))
            (.fatal .memFault))) := by
  unfold storeTo State.memWrite
  have hc : (s.logCall (.write o.address w (w.truncate o.src2))).admitsAccess o.address w
      = s.admitsAccess o.address w := rfl
  cases h : s.admitsAccess o.address w
  · right; simp [hc, h]
  · left; simp only [hc, h, if_true]; exact ⟨trivial, rfl⟩

/-! ## What every instruction leaves unchanged -/

/-- The part of the state no instruction writes, what may become of the run state, and that memory keeps its form. -/
structure ExecFrame (s t : State) : Prop where
  slots : t.slots = s.slots
  freeList : t.freeList = s.freeList
  activeList : t.activeList = s.activeList
  cfg : t.cfg = s.cfg
  inputs : t.inputs = s.inputs
  progress : t.progress = s.progress
  response : t.response = s.response
  runState : t.runState = s.runState ∨ t.runState = .trappedOk ∨ t.runState = .trappedBad ∨ t.runState = .halted
    ∨ (t.runState = .fatal ∧ s.cfg.admitted ≠ none)
  memory : Memory.wf s.mem → Memory.wf t.mem

/-- An outcome that is a next state with the frame. -/
def Framed (s : State) (r : Result) : Prop := ∃ t, r = .next t ∧ ExecFrame s t

theorem framed_write (rd : RegIdx) (v pc' : Word) (s : State) : Framed s (.next ((s.writeReg rd v).setPc pc')) :=
  ⟨_, rfl, by constructor <;> simp⟩

theorem framed_logWrite (c : PortCall) (rd : RegIdx) (v pc' : Word) (s : State) :
    Framed s (.next (((s.logCall c).writeReg rd v).setPc pc')) :=
  ⟨_, rfl, by constructor <;> simp⟩

theorem framed_writeAndAdvance (rd : RegIdx) (v : Word) (s : State) : Framed s (writeAndAdvance rd v s) :=
  ⟨_, rfl, by constructor <;> simp⟩

theorem framed_setPc (pc' : Word) (s : State) : Framed s (.next (s.setPc pc')) :=
  ⟨_, rfl, by constructor <;> simp⟩

theorem framed_takeRaise (s : State) (r : Raise) (h : ∀ x, r ≠ .fatal x) : Framed s (.next (takeRaise s r)) := by
  refine ⟨_, rfl, ?_⟩
  cases r
  case fatal x => exact absurd rfl (h x)
  all_goals constructor <;> simp

/-- A total byte map admits every access (R38). -/
theorem admitsAccess_of_total {s : State} (h : s.cfg.admitted = none) (a : Word) (w : Width) :
    s.admitsAccess a w = true := by
  have ha : ∀ x, admits s.cfg x = true := fun x => by simp [admits, h]
  cases w <;> simp [State.admitsAccess, Width.addrs, ha]

theorem framed_memFault (s : State) (c : PortCall) (a : Word) (w : Width) (h : s.admitsAccess a w = false) :
    Framed s (.next (takeRaise (s.logCall c) (.fatal .memFault))) := by
  have hn : s.cfg.admitted ≠ none := fun hn => by rw [admitsAccess_of_total hn] at h; cases h
  exact ⟨_, rfl, by constructor <;> simp [hn]⟩

theorem framed_shiftImmediate (o : Operands) (shift : Word → BitVec 5 → Word) (s : State) :
    Framed s (shiftImmediate o shift s) := by
  unfold shiftImmediate
  split
  · rcases rejectShift_cases s with ⟨_, h⟩ | ⟨_, h⟩ <;> rw [h]
    · exact framed_takeRaise s _ (by intro x; nofun)
    · exact framed_setPc _ s
  · exact framed_writeAndAdvance _ _ s

theorem framed_branchIf (c : Bool) (o : Operands) (s : State) : Framed s (branchIf c o s) := framed_setPc _ s

theorem framed_loadFrom (w : Width) (ext : Word → Word) (o : Operands) (s : State) : Framed s (loadFrom w ext o s) := by
  rcases loadFrom_cases w ext o s with ⟨_, h⟩ | ⟨ha, h⟩ <;> rw [h]
  · exact framed_logWrite _ _ _ _ s
  · exact framed_memFault s _ _ _ ha

theorem framed_storeTo (w : Width) (o : Operands) (s : State) : Framed s (storeTo w o s) := by
  rcases storeTo_cases w o s with ⟨_, h⟩ | ⟨ha, h⟩ <;> rw [h]
  · exact ⟨_, rfl, by constructor <;> first | rfl | exact .inl rfl | exact fun hm => Memory.wf_write hm _ _ _⟩
  · exact framed_memFault s _ _ _ ha

/-- Every action answers a next state, with the frame: the one lemma later proofs cite instead of unfolding
`runAction`. -/
theorem runAction_framed (a : Action) (o : Operands) (s : State) : Framed s (runAction a o s) := by
  cases a
  case slli => exact framed_shiftImmediate _ _ s
  case srli => exact framed_shiftImmediate _ _ s
  case srai => exact framed_shiftImmediate _ _ s
  case jal => exact framed_write _ _ _ s
  case jalr => exact framed_write _ _ _ s
  case beq => exact framed_branchIf _ _ s
  case bne => exact framed_branchIf _ _ s
  case blt => exact framed_branchIf _ _ s
  case bge => exact framed_branchIf _ _ s
  case bltu => exact framed_branchIf _ _ s
  case bgeu => exact framed_branchIf _ _ s
  case lb => exact framed_loadFrom _ _ _ s
  case lh => exact framed_loadFrom _ _ _ s
  case lw => exact framed_loadFrom _ _ _ s
  case lbu => exact framed_loadFrom _ _ _ s
  case lhu => exact framed_loadFrom _ _ _ s
  case sb => exact framed_storeTo _ _ s
  case sh => exact framed_storeTo _ _ s
  case sw => exact framed_storeTo _ _ s
  case ebreak => exact framed_takeRaise s _ (by intro x; nofun)
  case inv => exact framed_takeRaise s _ (by intro x; nofun)
  case halt => exact framed_takeRaise s _ (by intro x; nofun)
  all_goals exact framed_writeAndAdvance _ _ s

/-- An instruction is its action on its operands. -/
theorem exec_eq_runAction (i : Instr) (s : State) : exec i s = runAction (instrAction i) (instrOperands s i) s := by
  cases i <;> rfl

/-- Every instruction answers a next state, with the frame: the one lemma later proofs cite instead of unfolding
`exec`. -/
theorem exec_framed (i : Instr) (s : State) : Framed s (exec i s) := by
  rw [exec_eq_runAction]
  exact runAction_framed _ _ s

theorem runSelected_framed (sel : Selected) (s : State) : Framed s (runSelected sel s) := by
  cases sel
  · exact exec_framed _ s
  · exact runAction_framed _ _ s

/-! ## What an entry runs -/

/-- A shift-immediate depends on the low six bits of its immediate only (R58). -/
theorem shiftImmediate_congr {o o' : Operands} (hd : o.rd = o'.rd) (h1 : o.src1 = o'.src1)
    (hi : ∀ k, k < 6 → o.imm.getLsbD k = o'.imm.getLsbD k) (shift : Word → BitVec 5 → Word) (s : State) :
    shiftImmediate o shift s = shiftImmediate o' shift s := by
  have hm : o.modeBit = o'.modeBit := hi 5 (by decide)
  have ha : o.shamt = o'.shamt := by
    apply BitVec.eq_of_getLsbD_eq
    intro k hk
    simp only [Operands.shamt, BitVec.getLsbD_extractLsb', Nat.zero_add, hk, decide_true, Bool.true_and]
    exact hi k (by omega)
  unfold shiftImmediate
  rw [hm, ha, hd, h1]

/-- The low six bits of a shift-immediate's operand, from the field and from the word. -/
theorem getLsbD_imm6 (hi : BitVec 6) (w : Word) {k : Nat} (hk : k < 6) :
    (((hi ++ imm6Field w).signExtend 32 : Word)).getLsbD k = ((immIField w).signExtend 32).getLsbD k := by
  have h : (BitVec.getLsbD (w := 6 + 6) (hi ++ imm6Field w) k) = (imm6Field w).getLsbD k := by
    rw [BitVec.getLsbD_append, if_pos hk]
  rw [BitVec.getLsbD_signExtend, BitVec.getLsbD_signExtend, decide_eq_true (by omega : k < 32), if_pos (by omega),
    if_pos (by omega)]
  rw [Bool.true_and, Bool.true_and]
  refine h.trans ?_
  simp only [imm6Field, immIField, BitVec.getLsbD_extractLsb', hk, decide_true, Bool.true_and,
    decide_eq_true (by omega : k < 12)]

/-- The instruction of a word under an action's own tag is the action on the tuple that tag decodes. -/
theorem exec_of_instr {a : Action} {w : Word} {i : Instr} (h : a.instr w = some i) (s : State) :
    exec i s = runAction a (decodeOperands w s a.tag) s := by
  cases a
  case slli =>
    cases h
    exact shiftImmediate_congr (o := operandsI (rdField w) (rs1Field w) (0b000000#6 ++ imm6Field w) s)
      (o' := operandsI (rdField w) (rs1Field w) (immIField w) s) rfl rfl (fun _ hk => getLsbD_imm6 0b000000#6 w hk) shiftLeft s
  case srli =>
    cases h
    exact shiftImmediate_congr (o := operandsI (rdField w) (rs1Field w) (0b000000#6 ++ imm6Field w) s)
      (o' := operandsI (rdField w) (rs1Field w) (immIField w) s) rfl rfl (fun _ hk => getLsbD_imm6 0b000000#6 w hk) shiftRightLogical s
  case srai =>
    cases h
    exact shiftImmediate_congr (o := operandsI (rdField w) (rs1Field w) (0b010000#6 ++ imm6Field w) s)
      (o' := operandsI (rdField w) (rs1Field w) (immIField w) s) rfl rfl (fun _ hk => getLsbD_imm6 0b010000#6 w hk) shiftRightArith s
  case halt => cases h
  all_goals cases h; rfl

/-- What an entry selects runs its action on the tuple its tag decodes (R74, R75), whatever its tag. -/
theorem runSelected_select (e : Entry) (w : Word) (s : State) :
    runSelected (e.select w) s = runAction e.action (decodeOperands w s e.tag) s := by
  unfold Entry.select
  cases h : e.action.instr w with
  | none => rfl
  | some i =>
    by_cases ht : e.tag = e.action.tag
    · simp only [ht, if_true]
      exact exec_of_instr h s
    · simp only [ht, if_false]
      rfl

end Sys2Proof.Machine
end

