-- ==== Sys2Proof/Laws/Expr.lean ====
section
/-! SUPPORT. The laws of the value unit: an evaluation depends on registers, `pc`, memory and the parameters only, and a
value is given only to a text that has a token. -/

namespace Sys2Proof.Machine

theorem resolve_congr {s t : State} (h : SameProgramState s t) (text : Text) : resolve s text = resolve t text := by
  obtain ⟨hr, hp, _, _⟩ := h
  unfold resolve
  cases resolveName (text.drop 1) with
  | none => rfl
  | some r =>
    cases r
    · simp [hp]
    · simp [State.readReg_congr hr]

theorem singleToken_congr {s t : State} (h : SameProgramState s t) (tok : Token) :
    singleToken s tok = singleToken t tok := by
  unfold singleToken
  rw [resolve_congr h]

theorem evalDeref_congr {s t : State} (h : SameProgramState s t) (e : Evaluation) :
    evalDeref s e = evalDeref t e := by
  obtain ⟨_, _, hm, hc⟩ := h
  unfold evalDeref
  rcases e with ⟨calls, r | v⟩
  · rfl
  · simp only [State.memRead_congr hc hm]

theorem evalRange_congr {s t : State} (h : SameProgramState s t) (fuel : Nat) (tokens : List Token) :
    evalRange s fuel tokens = evalRange t fuel tokens := by
  induction fuel generalizing tokens with
  | zero =>
    match tokens with
    | [] => rfl
    | [tok] => simp [evalRange, singleToken_congr h]
    | _ :: _ :: _ => rfl
  | succ n ih =>
    match tokens with
    | [] => rfl
    | [tok] => simp [evalRange, singleToken_congr h]
    | first :: second :: rest =>
      simp only [evalRange, ih, h.2.2.2, evalDeref_congr h]

/-- An evaluation reads the program's state and the parameters only. -/
theorem exprValue_congr {s t : State} (h : SameProgramState s t) (text : Text) : exprValue s text = exprValue t text := by
  unfold exprValue
  simp only [evalRange_congr h, h.2.2.2]

theorem retagFrom_length (prev : Option TokenType) (tokens : List Token) :
    (retagFrom prev tokens).length = tokens.length := by
  induction tokens generalizing prev with
  | nil => rfl
  | cons t rest ih => simp [retagFrom, ih]

/-- R195 (4): a text that has a value tokenizes, within the capacity, to at least one token. -/
theorem tokens_of_exprValue {s : State} {text : Text} {v : Word} (h : (exprValue s text).2 = .ok v) :
    ∃ tokens, tokenize text = .ok tokens ∧ tokens ≠ [] ∧ exceeds tokens.length s.cfg.maxTokens = false := by
  unfold exprValue at h
  cases ht : tokenize text with
  | error p => simp [ht] at h
  | ok tokens =>
    refine ⟨tokens, rfl, ?_, ?_⟩
    · rintro rfl
      simp [ht, retag, retagFrom, evalRange] at h
      split at h <;> simp at h
    · cases hx : exceeds tokens.length s.cfg.maxTokens
      · rfl
      · simp [ht, hx] at h

end Sys2Proof.Machine
end

