-- ==== Sys2Proof/Laws/PerInstr.lean ====
section
/-! SUPPORT. One lemma for each constructor: the word of a well-formed instruction matches the instruction's own row of
the table, and that row's entry selects the instruction with every operand. -/

namespace Sys2Proof.Laws.EncodeSelects

/-- A well-formed instruction of rows 1 to 46 is what an entry that its word matches selects; the word of `inv` is one
of the reserved words. -/
def Statement (i : Instr) : Prop :=
  wellFormed i = true →
    match i with
    | .inv word => isReserved word = true
    | _ => ∃ e, e ∈ realEntries ∧ encode i &&& e.mask = e.value ∧ e.select (encode i) = .instr i

/-- The membership of a row, by its place. -/
theorem row (k : Nat) {e : Entry} (h : realEntries[k]? = some e) : e ∈ realEntries := List.mem_of_getElem? h

/-! ### What the mask of each format leaves of a word of that format -/

theorem matchR (funct7 : BitVec 7) (funct3 : BitVec 3) (opcode : BitVec 7) (rd rs1 rs2 : RegIdx) :
    encodeR funct7 funct3 opcode rd rs1 rs2 &&& 0xfe00707f#32 = encodeR funct7 funct3 opcode 0#5 0#5 0#5 := by
  rw [maskR_eq, funct7_encodeR, funct3_encodeR, opcode_encodeR]

theorem matchI (funct3 : BitVec 3) (opcode : BitVec 7) (rd rs1 : RegIdx) (imm : BitVec 12) :
    encodeI funct3 opcode rd rs1 imm &&& 0x0000707f#32 = encodeI funct3 opcode 0#5 0#5 0#12 := by
  rw [maskI_eq, funct3_encodeI, opcode_encodeI]

theorem matchShift (hi : BitVec 6) (funct3 : BitVec 3) (opcode : BitVec 7) (rd rs1 : RegIdx) (imm6 : BitVec 6) :
    encodeShift hi funct3 opcode rd rs1 imm6 &&& 0xfc00707f#32 = encodeShift hi funct3 opcode 0#5 0#5 0#6 := by
  rw [maskShift_eq, hi_encodeShift, encodeShift_eq, funct3_encodeI, opcode_encodeI, encodeShift_eq]

theorem matchS (funct3 : BitVec 3) (opcode : BitVec 7) (rs1 rs2 : RegIdx) (imm : BitVec 12) :
    encodeS funct3 opcode rs1 rs2 imm &&& 0x0000707f#32 = encodeI funct3 opcode 0#5 0#5 0#12 := by
  rw [maskI_eq, encodeS_eq, funct3_encodeR, opcode_encodeR]

theorem matchB (funct3 : BitVec 3) (opcode : BitVec 7) (rs1 rs2 : RegIdx) (offset : BitVec 13) :
    encodeB funct3 opcode rs1 rs2 offset &&& 0x0000707f#32 = encodeI funct3 opcode 0#5 0#5 0#12 := by
  rw [maskI_eq, encodeB_eq, funct3_encodeR, opcode_encodeR]

theorem matchU (opcode : BitVec 7) (rd : RegIdx) (imm20 : BitVec 20) :
    encodeU opcode rd imm20 &&& 0x0000007f#32 = encodeU opcode 0#5 0#20 := by
  rw [maskU_eq, opcode_encodeU]

theorem matchJ (opcode : BitVec 7) (rd : RegIdx) (offset : BitVec 21) :
    encodeJ opcode rd offset &&& 0x0000007f#32 = encodeU opcode 0#5 0#20 := by
  rw [maskU_eq, encodeJ_eq, opcode_encodeU]

/-! ### What an entry of each format selects from a word of that format -/

theorem selectR (f : RegIdx → RegIdx → RegIdx → Instr) (funct7 : BitVec 7) (funct3 : BitVec 3) (opcode : BitVec 7)
    (rd rs1 rs2 : RegIdx) (w : Word) (h : w = encodeR funct7 funct3 opcode rd rs1 rs2) :
    Selected.instr (f (rdField w) (rs1Field w) (rs2Field w)) = .instr (f rd rs1 rs2) := by
  subst h
  rw [rdField, rs1Field, rs2Field, rd_encodeR, rs1_encodeR, rs2_encodeR]

theorem selectI (f : RegIdx → RegIdx → BitVec 12 → Instr) (funct3 : BitVec 3) (opcode : BitVec 7) (rd rs1 : RegIdx)
    (imm : BitVec 12) (w : Word) (h : w = encodeI funct3 opcode rd rs1 imm) :
    Selected.instr (f (rdField w) (rs1Field w) (immIField w)) = .instr (f rd rs1 imm) := by
  subst h
  rw [rdField, rs1Field, immIField, rd_encodeI, rs1_encodeI, imm_encodeI]

theorem selectShift (f : RegIdx → RegIdx → BitVec 6 → Instr) (hi : BitVec 6) (funct3 : BitVec 3) (opcode : BitVec 7)
    (rd rs1 : RegIdx) (imm6 : BitVec 6) (w : Word) (h : w = encodeShift hi funct3 opcode rd rs1 imm6) :
    Selected.instr (f (rdField w) (rs1Field w) (imm6Field w)) = .instr (f rd rs1 imm6) := by
  subst h
  rw [imm6_encodeShift, rdField, rs1Field, encodeShift_eq, rd_encodeI, rs1_encodeI]

theorem selectS (f : RegIdx → RegIdx → BitVec 12 → Instr) (funct3 : BitVec 3) (opcode : BitVec 7) (rs1 rs2 : RegIdx)
    (imm : BitVec 12) (w : Word) (h : w = encodeS funct3 opcode rs1 rs2 imm) :
    Selected.instr (f (rs1Field w) (rs2Field w) (immSField w)) = .instr (f rs1 rs2 imm) := by
  subst h
  rw [immS_encodeS, rs1Field, rs2Field, encodeS_eq, rs1_encodeR, rs2_encodeR]

theorem selectB (f : RegIdx → RegIdx → BitVec 13 → Instr) (funct3 : BitVec 3) (opcode : BitVec 7) (rs1 rs2 : RegIdx)
    (offset : BitVec 13) (he : evenOffset offset = true) (w : Word) (h : w = encodeB funct3 opcode rs1 rs2 offset) :
    Selected.instr (f (rs1Field w) (rs2Field w) (immBField w)) = .instr (f rs1 rs2 offset) := by
  subst h
  rw [immB_encodeB _ _ _ _ _ he, rs1Field, rs2Field, encodeB_eq, rs1_encodeR, rs2_encodeR]

theorem selectU (f : RegIdx → BitVec 20 → Instr) (opcode : BitVec 7) (rd : RegIdx) (imm20 : BitVec 20) (w : Word)
    (h : w = encodeU opcode rd imm20) :
    Selected.instr (f (rdField w) (immUField w)) = .instr (f rd imm20) := by
  subst h
  rw [rdField, immUField, rd_encodeU, imm_encodeU]

theorem selectJ (f : RegIdx → BitVec 21 → Instr) (opcode : BitVec 7) (rd : RegIdx) (offset : BitVec 21)
    (he : evenOffset offset = true) (w : Word) (h : w = encodeJ opcode rd offset) :
    Selected.instr (f (rdField w) (immJField w)) = .instr (f rd offset) := by
  subst h
  rw [immJ_encodeJ _ _ _ he, rdField, encodeJ_eq, rd_encodeU]

/-! ### The constructors -/

theorem lui (rd : RegIdx) (imm20 : BitVec 20) : Statement (.lui rd imm20) :=
  fun _ => ⟨_, row 0 rfl, (matchU _ _ _).trans (by decide), selectU _ _ _ _ _ rfl⟩

theorem auipc (rd : RegIdx) (imm20 : BitVec 20) : Statement (.auipc rd imm20) :=
  fun _ => ⟨_, row 1 rfl, (matchU _ _ _).trans (by decide), selectU _ _ _ _ _ rfl⟩

theorem addi (rd rs1 : RegIdx) (imm : BitVec 12) : Statement (.addi rd rs1 imm) :=
  fun _ => ⟨_, row 2 rfl, (matchI _ _ _ _ _).trans (by decide), selectI _ _ _ _ _ _ _ rfl⟩

theorem slti (rd rs1 : RegIdx) (imm : BitVec 12) : Statement (.slti rd rs1 imm) :=
  fun _ => ⟨_, row 3 rfl, (matchI _ _ _ _ _).trans (by decide), selectI _ _ _ _ _ _ _ rfl⟩

theorem sltiu (rd rs1 : RegIdx) (imm : BitVec 12) : Statement (.sltiu rd rs1 imm) :=
  fun _ => ⟨_, row 4 rfl, (matchI _ _ _ _ _).trans (by decide), selectI _ _ _ _ _ _ _ rfl⟩

theorem xori (rd rs1 : RegIdx) (imm : BitVec 12) : Statement (.xori rd rs1 imm) :=
  fun _ => ⟨_, row 5 rfl, (matchI _ _ _ _ _).trans (by decide), selectI _ _ _ _ _ _ _ rfl⟩

theorem ori (rd rs1 : RegIdx) (imm : BitVec 12) : Statement (.ori rd rs1 imm) :=
  fun _ => ⟨_, row 6 rfl, (matchI _ _ _ _ _).trans (by decide), selectI _ _ _ _ _ _ _ rfl⟩

theorem andi (rd rs1 : RegIdx) (imm : BitVec 12) : Statement (.andi rd rs1 imm) :=
  fun _ => ⟨_, row 7 rfl, (matchI _ _ _ _ _).trans (by decide), selectI _ _ _ _ _ _ _ rfl⟩

theorem slli (rd rs1 : RegIdx) (imm6 : BitVec 6) : Statement (.slli rd rs1 imm6) :=
  fun _ => ⟨_, row 8 rfl, (matchShift _ _ _ _ _ _).trans (by decide), selectShift _ _ _ _ _ _ _ _ rfl⟩

theorem srli (rd rs1 : RegIdx) (imm6 : BitVec 6) : Statement (.srli rd rs1 imm6) :=
  fun _ => ⟨_, row 9 rfl, (matchShift _ _ _ _ _ _).trans (by decide), selectShift _ _ _ _ _ _ _ _ rfl⟩

theorem srai (rd rs1 : RegIdx) (imm6 : BitVec 6) : Statement (.srai rd rs1 imm6) :=
  fun _ => ⟨_, row 10 rfl, (matchShift _ _ _ _ _ _).trans (by decide), selectShift _ _ _ _ _ _ _ _ rfl⟩

theorem add (rd rs1 rs2 : RegIdx) : Statement (.add rd rs1 rs2) :=
  fun _ => ⟨_, row 11 rfl, (matchR _ _ _ _ _ _).trans (by decide), selectR _ _ _ _ _ _ _ _ rfl⟩

theorem sub (rd rs1 rs2 : RegIdx) : Statement (.sub rd rs1 rs2) :=
  fun _ => ⟨_, row 12 rfl, (matchR _ _ _ _ _ _).trans (by decide), selectR _ _ _ _ _ _ _ _ rfl⟩

theorem sll (rd rs1 rs2 : RegIdx) : Statement (.sll rd rs1 rs2) :=
  fun _ => ⟨_, row 13 rfl, (matchR _ _ _ _ _ _).trans (by decide), selectR _ _ _ _ _ _ _ _ rfl⟩

theorem slt (rd rs1 rs2 : RegIdx) : Statement (.slt rd rs1 rs2) :=
  fun _ => ⟨_, row 14 rfl, (matchR _ _ _ _ _ _).trans (by decide), selectR _ _ _ _ _ _ _ _ rfl⟩

theorem sltu (rd rs1 rs2 : RegIdx) : Statement (.sltu rd rs1 rs2) :=
  fun _ => ⟨_, row 15 rfl, (matchR _ _ _ _ _ _).trans (by decide), selectR _ _ _ _ _ _ _ _ rfl⟩

theorem xor (rd rs1 rs2 : RegIdx) : Statement (.xor rd rs1 rs2) :=
  fun _ => ⟨_, row 16 rfl, (matchR _ _ _ _ _ _).trans (by decide), selectR _ _ _ _ _ _ _ _ rfl⟩

theorem srl (rd rs1 rs2 : RegIdx) : Statement (.srl rd rs1 rs2) :=
  fun _ => ⟨_, row 17 rfl, (matchR _ _ _ _ _ _).trans (by decide), selectR _ _ _ _ _ _ _ _ rfl⟩

theorem sra (rd rs1 rs2 : RegIdx) : Statement (.sra rd rs1 rs2) :=
  fun _ => ⟨_, row 18 rfl, (matchR _ _ _ _ _ _).trans (by decide), selectR _ _ _ _ _ _ _ _ rfl⟩

theorem or (rd rs1 rs2 : RegIdx) : Statement (.or rd rs1 rs2) :=
  fun _ => ⟨_, row 19 rfl, (matchR _ _ _ _ _ _).trans (by decide), selectR _ _ _ _ _ _ _ _ rfl⟩

theorem and (rd rs1 rs2 : RegIdx) : Statement (.and rd rs1 rs2) :=
  fun _ => ⟨_, row 20 rfl, (matchR _ _ _ _ _ _).trans (by decide), selectR _ _ _ _ _ _ _ _ rfl⟩

theorem jal (rd : RegIdx) (offset : BitVec 21) : Statement (.jal rd offset) :=
  fun he => ⟨_, row 21 rfl, (matchJ _ _ _).trans (by decide), selectJ _ _ _ _ he _ rfl⟩

theorem jalr (rd rs1 : RegIdx) (imm : BitVec 12) : Statement (.jalr rd rs1 imm) :=
  fun _ => ⟨_, row 22 rfl, (matchI _ _ _ _ _).trans (by decide), selectI _ _ _ _ _ _ _ rfl⟩

theorem beq (rs1 rs2 : RegIdx) (offset : BitVec 13) : Statement (.beq rs1 rs2 offset) :=
  fun he => ⟨_, row 23 rfl, (matchB _ _ _ _ _).trans (by decide), selectB _ _ _ _ _ _ he _ rfl⟩

theorem bne (rs1 rs2 : RegIdx) (offset : BitVec 13) : Statement (.bne rs1 rs2 offset) :=
  fun he => ⟨_, row 24 rfl, (matchB _ _ _ _ _).trans (by decide), selectB _ _ _ _ _ _ he _ rfl⟩

theorem blt (rs1 rs2 : RegIdx) (offset : BitVec 13) : Statement (.blt rs1 rs2 offset) :=
  fun he => ⟨_, row 25 rfl, (matchB _ _ _ _ _).trans (by decide), selectB _ _ _ _ _ _ he _ rfl⟩

theorem bge (rs1 rs2 : RegIdx) (offset : BitVec 13) : Statement (.bge rs1 rs2 offset) :=
  fun he => ⟨_, row 26 rfl, (matchB _ _ _ _ _).trans (by decide), selectB _ _ _ _ _ _ he _ rfl⟩

theorem bltu (rs1 rs2 : RegIdx) (offset : BitVec 13) : Statement (.bltu rs1 rs2 offset) :=
  fun he => ⟨_, row 27 rfl, (matchB _ _ _ _ _).trans (by decide), selectB _ _ _ _ _ _ he _ rfl⟩

theorem bgeu (rs1 rs2 : RegIdx) (offset : BitVec 13) : Statement (.bgeu rs1 rs2 offset) :=
  fun he => ⟨_, row 28 rfl, (matchB _ _ _ _ _).trans (by decide), selectB _ _ _ _ _ _ he _ rfl⟩

theorem lb (rd rs1 : RegIdx) (imm : BitVec 12) : Statement (.lb rd rs1 imm) :=
  fun _ => ⟨_, row 29 rfl, (matchI _ _ _ _ _).trans (by decide), selectI _ _ _ _ _ _ _ rfl⟩

theorem lh (rd rs1 : RegIdx) (imm : BitVec 12) : Statement (.lh rd rs1 imm) :=
  fun _ => ⟨_, row 30 rfl, (matchI _ _ _ _ _).trans (by decide), selectI _ _ _ _ _ _ _ rfl⟩

theorem lw (rd rs1 : RegIdx) (imm : BitVec 12) : Statement (.lw rd rs1 imm) :=
  fun _ => ⟨_, row 31 rfl, (matchI _ _ _ _ _).trans (by decide), selectI _ _ _ _ _ _ _ rfl⟩

theorem lbu (rd rs1 : RegIdx) (imm : BitVec 12) : Statement (.lbu rd rs1 imm) :=
  fun _ => ⟨_, row 32 rfl, (matchI _ _ _ _ _).trans (by decide), selectI _ _ _ _ _ _ _ rfl⟩

theorem lhu (rd rs1 : RegIdx) (imm : BitVec 12) : Statement (.lhu rd rs1 imm) :=
  fun _ => ⟨_, row 33 rfl, (matchI _ _ _ _ _).trans (by decide), selectI _ _ _ _ _ _ _ rfl⟩

theorem sb (rs1 rs2 : RegIdx) (imm : BitVec 12) : Statement (.sb rs1 rs2 imm) :=
  fun _ => ⟨_, row 34 rfl, (matchS _ _ _ _ _).trans (by decide), selectS _ _ _ _ _ _ _ rfl⟩

theorem sh (rs1 rs2 : RegIdx) (imm : BitVec 12) : Statement (.sh rs1 rs2 imm) :=
  fun _ => ⟨_, row 35 rfl, (matchS _ _ _ _ _).trans (by decide), selectS _ _ _ _ _ _ _ rfl⟩

theorem sw (rs1 rs2 : RegIdx) (imm : BitVec 12) : Statement (.sw rs1 rs2 imm) :=
  fun _ => ⟨_, row 36 rfl, (matchS _ _ _ _ _).trans (by decide), selectS _ _ _ _ _ _ _ rfl⟩

theorem mul (rd rs1 rs2 : RegIdx) : Statement (.mul rd rs1 rs2) :=
  fun _ => ⟨_, row 37 rfl, (matchR _ _ _ _ _ _).trans (by decide), selectR _ _ _ _ _ _ _ _ rfl⟩

theorem mulh (rd rs1 rs2 : RegIdx) : Statement (.mulh rd rs1 rs2) :=
  fun _ => ⟨_, row 38 rfl, (matchR _ _ _ _ _ _).trans (by decide), selectR _ _ _ _ _ _ _ _ rfl⟩

theorem mulhsu (rd rs1 rs2 : RegIdx) : Statement (.mulhsu rd rs1 rs2) :=
  fun _ => ⟨_, row 39 rfl, (matchR _ _ _ _ _ _).trans (by decide), selectR _ _ _ _ _ _ _ _ rfl⟩

theorem mulhu (rd rs1 rs2 : RegIdx) : Statement (.mulhu rd rs1 rs2) :=
  fun _ => ⟨_, row 40 rfl, (matchR _ _ _ _ _ _).trans (by decide), selectR _ _ _ _ _ _ _ _ rfl⟩

theorem div (rd rs1 rs2 : RegIdx) : Statement (.div rd rs1 rs2) :=
  fun _ => ⟨_, row 41 rfl, (matchR _ _ _ _ _ _).trans (by decide), selectR _ _ _ _ _ _ _ _ rfl⟩

theorem divu (rd rs1 rs2 : RegIdx) : Statement (.divu rd rs1 rs2) :=
  fun _ => ⟨_, row 42 rfl, (matchR _ _ _ _ _ _).trans (by decide), selectR _ _ _ _ _ _ _ _ rfl⟩

theorem rem (rd rs1 rs2 : RegIdx) : Statement (.rem rd rs1 rs2) :=
  fun _ => ⟨_, row 43 rfl, (matchR _ _ _ _ _ _).trans (by decide), selectR _ _ _ _ _ _ _ _ rfl⟩

theorem remu (rd rs1 rs2 : RegIdx) : Statement (.remu rd rs1 rs2) :=
  fun _ => ⟨_, row 44 rfl, (matchR _ _ _ _ _ _).trans (by decide), selectR _ _ _ _ _ _ _ _ rfl⟩

theorem ebreak : Statement .ebreak :=
  fun _ => ⟨_, row 45 rfl, by decide, rfl⟩

theorem inv (word : Word) : Statement (.inv word) := fun h => h

end Sys2Proof.Laws.EncodeSelects
end

