-- ==== Sys2Proof/Laws/Program.lean ====
section
/-! SUPPORT. An instruction reads and writes the program's own state only: two states that agree on registers, `pc`,
memory and the parameters agree on them after it. -/

namespace Sys2Proof.Machine

/-- Both outcomes are next states that agree on the program's state. -/
def SameOutcome (r r' : Result) : Prop := ∃ t t', r = .next t ∧ r' = .next t' ∧ SameProgramState t t'

theorem SameProgramState.readReg {s s' : State} (h : SameProgramState s s') (i : RegIdx) : s.readReg i = s'.readReg i :=
  State.readReg_congr h.1 i

theorem SameProgramState.snpc {s s' : State} (h : SameProgramState s s') : s.snpc = s'.snpc := by
  unfold State.snpc
  rw [h.2.1]

theorem SameProgramState.admitsAccess {s s' : State} (h : SameProgramState s s') (a : Word) (w : Width) :
    s.admitsAccess a w = s'.admitsAccess a w := by
  unfold State.admitsAccess
  rw [h.2.2.2]

theorem operandsI_congr {s s' : State} (h : SameProgramState s s') (rd rs1 : RegIdx) (imm : BitVec 12) :
    operandsI rd rs1 imm s = operandsI rd rs1 imm s' := by
  unfold operandsI; rw [h.readReg]

theorem operandsS_congr {s s' : State} (h : SameProgramState s s') (rs1 rs2 : RegIdx) (imm : BitVec 12) :
    operandsS rs1 rs2 imm s = operandsS rs1 rs2 imm s' := by
  unfold operandsS; rw [h.readReg, h.readReg]

theorem operandsR_congr {s s' : State} (h : SameProgramState s s') (rd rs1 rs2 : RegIdx) :
    operandsR rd rs1 rs2 s = operandsR rd rs1 rs2 s' := by
  unfold operandsR; rw [h.readReg, h.readReg]

theorem operandsB_congr {s s' : State} (h : SameProgramState s s') (rs1 rs2 : RegIdx) (offset : BitVec 13) :
    operandsB rs1 rs2 offset s = operandsB rs1 rs2 offset s' := by
  unfold operandsB; rw [h.readReg, h.readReg]

theorem SameProgramState.writeReg {s s' : State} (h : SameProgramState s s') (rd : RegIdx) (v : Word) :
    SameProgramState (s.writeReg rd v) (s'.writeReg rd v) := by
  obtain ⟨hr, hp, hm, hc⟩ := h
  refine ⟨?_, by simp [hp], by simp [hm], by simp [hc]⟩
  unfold State.writeReg
  split
  · exact hr
  · simp [hr]

theorem SameProgramState.setPc {s s' : State} (h : SameProgramState s s') (v : Word) :
    SameProgramState (s.setPc v) (s'.setPc v) := ⟨h.1, rfl, h.2.2.1, h.2.2.2⟩

theorem SameProgramState.logCall {s s' : State} (h : SameProgramState s s') (c c' : PortCall) :
    SameProgramState (s.logCall c) (s'.logCall c') := h

theorem SameProgramState.takeRaise {s s' : State} (h : SameProgramState s s') (r r' : Raise) :
    SameProgramState (takeRaise s r) (takeRaise s' r') :=
  ⟨by simp [h.1], by simp [h.snpc], by simp [h.2.2.1], by simp [h.2.2.2]⟩

theorem same_write {s s' : State} (h : SameProgramState s s') (rd : RegIdx) (v pc' : Word) :
    SameOutcome (.next ((s.writeReg rd v).setPc pc')) (.next ((s'.writeReg rd v).setPc pc')) :=
  ⟨_, _, rfl, rfl, (h.writeReg rd v).setPc pc'⟩

theorem same_writeAndAdvance {s s' : State} (h : SameProgramState s s') (rd : RegIdx) (v : Word) :
    SameOutcome (writeAndAdvance rd v s) (writeAndAdvance rd v s') := by
  unfold writeAndAdvance
  rw [h.snpc]
  exact same_write h rd v _

theorem same_shiftImmediate {s s' : State} (h : SameProgramState s s') (o : Operands)
    (shift : Word → BitVec 5 → Word) : SameOutcome (shiftImmediate o shift s) (shiftImmediate o shift s') := by
  unfold shiftImmediate rejectShift
  split
  · rw [h.2.2.2]
    split
    · exact ⟨_, _, rfl, rfl, h.takeRaise _ _⟩
    · rw [h.snpc]
      exact ⟨_, _, rfl, rfl, h.setPc _⟩
  · exact same_writeAndAdvance h _ _

theorem same_branchIf {s s' : State} (h : SameProgramState s s') (c : Bool) (o : Operands) :
    SameOutcome (branchIf c o s) (branchIf c o s') := by
  unfold branchIf
  rw [h.snpc, h.2.1]
  exact ⟨_, _, rfl, rfl, h.setPc _⟩

theorem same_loadFrom {s s' : State} (h : SameProgramState s s') (w : Width) (ext : Word → Word) (o : Operands) :
    SameOutcome (loadFrom w ext o s) (loadFrom w ext o s') := by
  rcases loadFrom_cases w ext o s with ⟨ha, e⟩ | ⟨ha, e⟩ <;> rcases loadFrom_cases w ext o s' with ⟨ha', e'⟩ | ⟨ha', e'⟩
  · rw [e, e', h.snpc, h.2.2.1]
    exact ⟨_, _, rfl, rfl, ((h.logCall _ _).writeReg _ _).setPc _⟩
  · rw [h.admitsAccess, ha'] at ha; cases ha
  · rw [h.admitsAccess, ha'] at ha; cases ha
  · rw [e, e']
    exact ⟨_, _, rfl, rfl, (h.logCall _ _).takeRaise _ _⟩

theorem same_storeTo {s s' : State} (h : SameProgramState s s') (w : Width) (o : Operands) :
    SameOutcome (storeTo w o s) (storeTo w o s') := by
  rcases storeTo_cases w o s with ⟨ha, e⟩ | ⟨ha, e⟩ <;> rcases storeTo_cases w o s' with ⟨ha', e'⟩ | ⟨ha', e'⟩
  · rw [e, e', h.snpc, h.2.2.1]
    exact ⟨_, _, rfl, rfl, h.1, rfl, rfl, h.2.2.2⟩
  · rw [h.admitsAccess, ha'] at ha; cases ha
  · rw [h.admitsAccess, ha'] at ha; cases ha
  · rw [e, e']
    exact ⟨_, _, rfl, rfl, (h.logCall _ _).takeRaise _ _⟩

/-- An action's effect on the program's state is a function of the program's state and the operands. -/
theorem runAction_same {s s' : State} (h : SameProgramState s s') (a : Action) (o : Operands) :
    SameOutcome (runAction a o s) (runAction a o s') := by
  cases a
  case auipc => simp only [runAction, actAuipc, h.2.1]; exact same_writeAndAdvance h _ _
  case slli => exact same_shiftImmediate h _ _
  case srli => exact same_shiftImmediate h _ _
  case srai => exact same_shiftImmediate h _ _
  case jal => simp only [runAction, actJal, h.2.1, h.snpc]; exact same_write h _ _ _
  case jalr => simp only [runAction, actJalr, h.snpc]; exact same_write h _ _ _
  case beq => exact same_branchIf h _ _
  case bne => exact same_branchIf h _ _
  case blt => exact same_branchIf h _ _
  case bge => exact same_branchIf h _ _
  case bltu => exact same_branchIf h _ _
  case bgeu => exact same_branchIf h _ _
  case lb => exact same_loadFrom h _ _ _
  case lh => exact same_loadFrom h _ _ _
  case lw => exact same_loadFrom h _ _ _
  case lbu => exact same_loadFrom h _ _ _
  case lhu => exact same_loadFrom h _ _ _
  case sb => exact same_storeTo h _ _
  case sh => exact same_storeTo h _ _
  case sw => exact same_storeTo h _ _
  case ebreak => exact ⟨_, _, rfl, rfl, h.takeRaise _ _⟩
  case inv => exact ⟨_, _, rfl, rfl, h.takeRaise _ _⟩
  case halt => exact ⟨_, _, rfl, rfl, h.takeRaise _ _⟩
  all_goals exact same_writeAndAdvance h _ _

theorem decodeOperands_congr {s s' : State} (h : SameProgramState s s') (w : Word) (tag : TypeTag) :
    decodeOperands w s tag = decodeOperands w s' tag := by
  cases tag
  · exact operandsI_congr h _ _ _
  · rfl
  · exact operandsS_congr h _ _ _
  · rfl
  · exact operandsR_congr h _ _ _
  · exact operandsB_congr h _ _ _
  · rfl

theorem instrOperands_congr {s s' : State} (h : SameProgramState s s') (i : Instr) :
    instrOperands s i = instrOperands s' i := by
  cases i
  all_goals
    first
    | rfl
    | exact operandsI_congr h _ _ _
    | exact operandsR_congr h _ _ _
    | exact operandsS_congr h _ _ _
    | exact operandsB_congr h _ _ _

/-- Every instruction's effect on the program's state is a function of the program's state. -/
theorem exec_same {s s' : State} (h : SameProgramState s s') (i : Instr) : SameOutcome (exec i s) (exec i s') := by
  rw [exec_eq_runAction, exec_eq_runAction, instrOperands_congr h]
  exact runAction_same h _ _

theorem runSelected_same {s s' : State} (h : SameProgramState s s') (sel : Selected) :
    SameOutcome (runSelected sel s) (runSelected sel s') := by
  cases sel with
  | instr i => exact exec_same h i
  | action a tag w =>
    simp only [runSelected, decodeOperands_congr h]
    exact runAction_same h _ _

end Sys2Proof.Machine
end

