-- ==== Sys2Proof/Laws/Watch.lean ====
section
/-! SUPPORT. What a scan leaves unchanged, and the laws of the pool. -/

namespace Sys2Proof.Machine

/-- What a scan over the slots `hs` leaves unchanged. -/
structure ScanFrame (hs : List SlotIdx) (s t : State) : Prop where
  regs : t.regs = s.regs
  pc : t.pc = s.pc
  mem : t.mem = s.mem
  freeList : t.freeList = s.freeList
  activeList : t.activeList = s.activeList
  cfg : t.cfg = s.cfg
  inputs : t.inputs = s.inputs
  progress : t.progress = s.progress
  response : t.response = s.response
  haltRet : t.haltRet = s.haltRet
  trapPc : t.trapPc = s.trapPc
  trapPcSet : t.trapPcSet = s.trapPcSet
  fresh : t.fresh = s.fresh
  exprs : ∀ k, (t.slot k).expr = (s.slot k).expr
  others : ∀ k, k ∉ hs → t.slot k = s.slot k

theorem ScanFrame.refl (hs : List SlotIdx) (s : State) : ScanFrame hs s s := by
  constructor <;> simp

theorem ScanFrame.sameProgram {hs : List SlotIdx} {s t : State} (h : ScanFrame hs s t) : SameProgramState s t :=
  ⟨h.regs.symm, h.pc.symm, h.mem.symm, h.cfg.symm⟩

theorem ScanFrame.trans {hs : List SlotIdx} {s t u : State} (h1 : ScanFrame hs s t) (h2 : ScanFrame hs t u) :
    ScanFrame hs s u where
  regs := h2.regs.trans h1.regs
  pc := h2.pc.trans h1.pc
  mem := h2.mem.trans h1.mem
  freeList := h2.freeList.trans h1.freeList
  activeList := h2.activeList.trans h1.activeList
  cfg := h2.cfg.trans h1.cfg
  inputs := h2.inputs.trans h1.inputs
  progress := h2.progress.trans h1.progress
  response := h2.response.trans h1.response
  haltRet := h2.haltRet.trans h1.haltRet
  trapPc := h2.trapPc.trans h1.trapPc
  trapPcSet := h2.trapPcSet.trans h1.trapPcSet
  fresh := h2.fresh.trans h1.fresh
  exprs k := (h2.exprs k).trans (h1.exprs k)
  others k hk := (h2.others k hk).trans (h1.others k hk)

theorem ScanFrame.mono {hs hs' : List SlotIdx} {s t : State} (h : ScanFrame hs s t) (hsub : ∀ k ∈ hs, k ∈ hs') :
    ScanFrame hs' s t :=
  { h with others := fun k hk => h.others k fun hin => hk (hsub k hin) }

theorem scanFrame_logCalls (hs : List SlotIdx) (s : State) (calls : List PortCall) :
    ScanFrame hs s (s.logCalls calls) := by
  constructor <;> first | rfl | exact fun _ => rfl | exact fun _ _ => rfl

theorem scanFrame_fatal (hs : List SlotIdx) (s : State) (calls : List PortCall) (r : FatalReason) :
    ScanFrame hs s ((s.logCalls calls).enterFatal r) := by
  constructor <;> first | rfl | exact fun _ => rfl | exact fun _ _ => rfl

theorem scanFrame_update (h : SlotIdx) (rest : List SlotIdx) (s : State) (calls : List PortCall) (v : Word) :
    ScanFrame (h :: rest) s ((s.logCalls calls).setSlot h { expr := (s.slot h).expr, last := v }) where
  regs := rfl
  pc := rfl
  mem := rfl
  freeList := rfl
  activeList := rfl
  cfg := rfl
  inputs := rfl
  progress := rfl
  response := rfl
  haltRet := rfl
  trapPc := rfl
  trapPcSet := rfl
  fresh := rfl
  exprs k := by
    rw [State.slot_setSlot]
    split
    · subst k; rfl
    · rfl
  others k hk := by
    rw [State.slot_setSlot, if_neg fun e => hk (by simp [e])]
    rfl

/-- The loop of the comparator: its frame, and what becomes of the run state. -/
theorem scanFrom_frame (hs : List SlotIdx) (changes : List Change) (s : State) :
    ScanFrame hs s (scanFrom hs changes s).2
      ∧ ((scanFrom hs changes s).2.runState = s.runState ∧ (scanFrom hs changes s).2.fatalReason = s.fatalReason
        ∨ (scanFrom hs changes s).2.runState = .fatal ∧ hs ≠ []) := by
  induction hs generalizing changes s with
  | nil => exact ⟨ScanFrame.refl _ _, .inl ⟨rfl, rfl⟩⟩
  | cons h rest ih =>
    have step : ∀ (cs : List Change) (s1 : State), ScanFrame (h :: rest) s s1 → s1.runState = s.runState →
        s1.fatalReason = s.fatalReason →
        ScanFrame (h :: rest) s (scanFrom rest cs s1).2
        ∧ ((scanFrom rest cs s1).2.runState = s.runState ∧ (scanFrom rest cs s1).2.fatalReason = s.fatalReason
          ∨ (scanFrom rest cs s1).2.runState = .fatal ∧ h :: rest ≠ []) := by
      intro cs s1 hf hr hr'
      obtain ⟨f, r⟩ := ih cs s1
      refine ⟨hf.trans (f.mono fun k hk => by simp [hk]), ?_⟩
      rcases r with ⟨r1, r2⟩ | ⟨r, _⟩
      · exact .inl ⟨r1.trans hr, r2.trans hr'⟩
      · exact .inr ⟨r, by simp⟩
    rw [scanFrom]
    split
    · exact ⟨scanFrame_fatal _ _ _ _, .inr ⟨rfl, by simp⟩⟩
    · split
      · exact step _ _ (scanFrame_logCalls _ _ _) rfl rfl
      · exact step _ _ (scanFrame_update _ _ _ _ _) rfl rfl
    · exact step _ _ (scanFrame_logCalls _ _ _) rfl rfl

theorem scanFrame_setRunState {hs : List SlotIdx} {s t : State} (h : ScanFrame hs s t) (r : RunState) :
    ScanFrame hs s (t.setRunState r) :=
  { h with }

/-- A whole scan: its frame, and what becomes of the run state (R192). -/
theorem detectChanges_frame (s : State) :
    ScanFrame s.activeList s (detectChanges s).2
      ∧ ((detectChanges s).2.runState = s.runState
        ∨ ((detectChanges s).2.runState = .stopped ∧ s.runState = .running)
        ∨ ((detectChanges s).2.runState = .fatal ∧ s.activeList ≠ [])) := by
  obtain ⟨f, r⟩ := scanFrom_frame s.activeList [] s
  unfold detectChanges
  generalize hp : scanFrom s.activeList [] s = p at f r
  obtain ⟨cs, t⟩ := p
  simp only at f r ⊢
  split
  · rename_i hc
    refine ⟨scanFrame_setRunState f _, ?_⟩
    rcases r with ⟨r, _⟩ | ⟨r, _⟩
    · exact .inr (.inl ⟨rfl, r ▸ hc.2⟩)
    · rw [hc.2] at r; cases r
  · refine ⟨f, ?_⟩
    rcases r with ⟨r, _⟩ | ⟨r, ha⟩
    · exact .inl r
    · exact .inr (.inr ⟨r, ha⟩)

/-! ## The pool -/

theorem allocate_eq_some {s s1 : State} {h : SlotIdx} (ha : allocate s = some (h, s1)) :
    ∃ rest, s.freeList = h :: rest ∧ s1 = { s with freeList := rest, activeList := h :: s.activeList } := by
  unfold allocate at ha
  split at ha
  · cases ha
  · rename_i x rest he
    simp only [Option.some.injEq, Prod.mk.injEq] at ha
    obtain ⟨rfl, rfl⟩ := ha
    exact ⟨rest, he, rfl⟩

/-- The outcomes of `wp_set` (R191, R155). -/
inductive SetOutcome (s : State) (text : Text) (t : State) : Prop where
  | syntaxError (calls : List PortCall) (p : Nat) (value : exprValue s text = (calls, .syntaxError p))
      (result : t = (s.logCalls calls).respond (.syntaxError p))
  | capacity (calls : List PortCall) (value : exprValue s text = (calls, .capacity))
      (result : t = (s.logCalls calls).respond .capacity)
  | fatal (calls : List PortCall) (r : FatalReason) (value : exprValue s text = (calls, .fatal r))
      (result : t = ((s.logCalls calls).enterFatal r).respond (.fatalCondition r))
  | tooLong (calls : List PortCall) (v : Word) (value : exprValue s text = (calls, .ok v))
      (long : exceeds text.length s.cfg.maxExprLen = true) (result : t = (s.logCalls calls).respond .capacity)
  | exhausted (calls : List PortCall) (v : Word) (value : exprValue s text = (calls, .ok v))
      (fits : exceeds text.length s.cfg.maxExprLen = false) (full : s.freeList = [])
      (result : t = ((s.logCalls calls).enterFatal .poolExhausted).respond (.fatalCondition .poolExhausted))
  | taken (calls : List PortCall) (v : Word) (h : SlotIdx) (rest : List SlotIdx)
      (value : exprValue s text = (calls, .ok v)) (fits : exceeds text.length s.cfg.maxExprLen = false)
      (free : s.freeList = h :: rest)
      (result : t = ((State.setSlot { s.logCalls calls with freeList := rest, activeList := h :: s.activeList } h
        { expr := text, last := v }).respond (.handle h)))

theorem wpSet_cases (s : State) (text : Text) : SetOutcome s text (wpSet s text) := by
  unfold wpSet
  split
  · exact .syntaxError _ _ (by assumption) rfl
  · exact .capacity _ (by assumption) rfl
  · exact .fatal _ _ (by assumption) rfl
  · split
    · exact .tooLong _ _ (by assumption) (by assumption) rfl
    · rename_i hx
      rw [Bool.not_eq_true] at hx
      split
      · rename_i ha
        refine .exhausted _ _ (by assumption) hx ?_ rfl
        unfold allocate at ha
        split at ha
        · assumption
        · cases ha
      · rename_i ha
        obtain ⟨rest, h1, h2⟩ := allocate_eq_some ha
        subst h2
        exact .taken _ _ _ rest (by assumption) hx h1 rfl

theorem activeSlot_eq_some {s : State} {id : Int} {h : SlotIdx} (ha : activeSlot s id = some h) :
    h ∈ s.activeList ∧ (h.val : Int) = id := by
  unfold activeSlot at ha
  exact ⟨List.mem_of_find?_eq_some ha, by simpa using List.find?_some ha⟩

/-- R195: the two lists together have no slot twice. -/
theorem PoolPartition.nodup {s : State} (h : PoolPartition s) : (s.freeList ++ s.activeList).Nodup :=
  h.nodup_iff.mpr (List.nodup_finRange _)

/-- R21: no slot is in both lists. -/
theorem PoolPartition.disjoint {s : State} (h : PoolPartition s) {k : SlotIdx} (hf : k ∈ s.freeList)
    (ha : k ∈ s.activeList) : False :=
  (List.nodup_append.mp h.nodup).2.2 k hf k ha rfl

end Sys2Proof.Machine
end

