-- ==== Sys2Proof/Laws/Step.lean ====
section
/-! SUPPORT. What one transition can do: the inversion lemmas of a round of the run loop, and what the end of a round
leaves unchanged. -/

namespace Sys2Proof.Machine

/-- A round of a run with a step left: the fetch faults, or the selected action answers `u` and the round is closed. -/
theorem step_running {s : State} (hr : s.runState = .running) (hl : s.progress.left ≠ some 0) :
    (s.admitsAccess s.pc .four = false
      ∧ step s = .next (endRun [] ((countStep (fetched s.clearOutputs)).enterFatal .memFault)))
    ∨ ∃ u, s.fetchWord = some (Memory.read s.mem s.pc .four)
        ∧ runSelected (dispatchWord s.cfg.table (Memory.read s.mem s.pc .four)) (fetched s.clearOutputs) = .next u
        ∧ ExecFrame (fetched s.clearOutputs) u ∧ step s = .next (afterInstruction u) := by
  have hl' : s.clearOutputs.progress.left ≠ some 0 := hl
  have hf : s.clearOutputs.fetchWord
      = if s.admitsAccess s.pc .four then some (Memory.read s.mem s.pc .four) else none := rfl
  have hf' : s.fetchWord
      = if s.admitsAccess s.pc .four then some (Memory.read s.mem s.pc .four) else none := rfl
  have hh : s.clearOutputs.cfg.table = s.cfg.table := rfl
  unfold step
  rw [if_pos hr]
  unfold runRound
  rw [if_neg hl', hf, hf']
  cases ha : s.admitsAccess s.pc .four
  · left; simp
  · right
    obtain ⟨u, hu, hfr⟩ := runSelected_framed
      (dispatchWord s.cfg.table (Memory.read s.mem s.pc .four)) (fetched s.clearOutputs)
    refine ⟨u, by simp, hu, hfr, ?_⟩
    simp [hu]

/-- A `run` with no step left ends. -/
theorem step_running_done {s : State} (hr : s.runState = .running) (hl : s.progress.left = some 0) :
    step s = .next (endRun [] (s.clearOutputs.setRunState .stopped)) := by
  have hl' : s.clearOutputs.progress.left = some 0 := hl
  unfold step
  rw [if_pos hr]
  unfold runRound
  rw [if_pos hl']

theorem step_idle {s : State} (hr : s.runState ≠ .running) (hi : s.inputs = []) : step s = .next s.clearOutputs := by
  unfold step
  rw [if_neg hr, hi]

theorem step_input {s : State} (hr : s.runState ≠ .running) {input : Input} {rest : List Input}
    (hi : s.inputs = input :: rest) :
    step s = .next (applyInput { s.clearOutputs with inputs := rest } input) := by
  unfold step
  rw [if_neg hr, hi]

/-! ## The end of a round -/

/-- The end of a round: without a scan where the step was fatal, else after the scan. -/
theorem afterInstruction_cases (u : State) :
    (u.runState = .fatal ∧ afterInstruction u = endRun [] (countStep u))
    ∨ (u.runState ≠ .fatal
      ∧ afterInstruction u = closeRound (detectChanges (countStep u)).1 (detectChanges (countStep u)).2) := by
  unfold afterInstruction
  by_cases h : (countStep u).runState = .fatal
  · exact .inl ⟨h, by rw [if_pos h]⟩
  · exact .inr ⟨h, by rw [if_neg h]⟩

/-- Items (d) and (e) of R182, by the run state after the scan. -/
theorem closeRound_cases (changes : List Change) (v : State) :
    (v.runState = .running ∧ v.progress.left = some 0
      ∧ closeRound changes v = endRun changes (v.setRunState .stopped))
    ∨ (v.runState = .running ∧ v.progress.left ≠ some 0 ∧ closeRound changes v = v)
    ∨ (v.runState ≠ .running ∧ closeRound changes v = endRun changes v) := by
  unfold closeRound
  by_cases h : v.runState = .running
  · by_cases hl : v.progress.left = some 0
    · exact .inl ⟨h, hl, by rw [if_pos h, if_pos hl]⟩
    · exact .inr (.inl ⟨h, hl, by rw [if_pos h, if_neg hl]⟩)
  · exact .inr (.inr ⟨h, by rw [if_neg h]⟩)

/-- What the end of a round keeps of the state after the action. -/
structure RoundFrame (u t : State) : Prop where
  regs : t.regs = u.regs
  pc : t.pc = u.pc
  mem : t.mem = u.mem
  freeList : t.freeList = u.freeList
  activeList : t.activeList = u.activeList
  cfg : t.cfg = u.cfg
  inputs : t.inputs = u.inputs
  haltRet : t.haltRet = u.haltRet
  trapPc : t.trapPc = u.trapPc
  exprs : ∀ k, (t.slot k).expr = (u.slot k).expr
  others : ∀ k, k ∉ u.activeList → t.slot k = u.slot k

theorem ScanFrame.round {u t : State} (h : ScanFrame u.activeList u t) : RoundFrame u t where
  regs := h.regs
  pc := h.pc
  mem := h.mem
  freeList := h.freeList
  activeList := h.activeList
  cfg := h.cfg
  inputs := h.inputs
  haltRet := h.haltRet
  trapPc := h.trapPc
  exprs := h.exprs
  others := h.others

theorem RoundFrame.closeRound {u t : State} (h : RoundFrame u t) (changes : List Change) :
    RoundFrame u (closeRound changes t) := by
  rcases closeRound_cases changes t with ⟨_, _, e⟩ | ⟨_, _, e⟩ | ⟨_, e⟩ <;> rw [e]
  · exact { h with }
  · exact h
  · exact { h with }

theorem afterInstruction_frame (u : State) : RoundFrame u (afterInstruction u) := by
  rcases afterInstruction_cases u with ⟨_, e⟩ | ⟨_, e⟩ <;> rw [e]
  · constructor <;> first | rfl | exact fun _ => rfl | exact fun _ _ => rfl
  · have f := (detectChanges_frame (countStep u)).1
    have g : RoundFrame u (detectChanges (countStep u)).2 :=
      ⟨f.regs, f.pc, f.mem, f.freeList, f.activeList, f.cfg, f.inputs, f.haltRet, f.trapPc, f.exprs, f.others⟩
    exact g.closeRound _

/-- After a round that is not over, steps are left (R182). -/
theorem afterInstruction_running (u : State) (h : (afterInstruction u).runState = .running) :
    (afterInstruction u).progress.left ≠ some 0 := by
  rcases afterInstruction_cases u with ⟨hf, e⟩ | ⟨_, e⟩ <;> rw [e] at h ⊢
  · have h' : u.runState = .running := h
    rw [hf] at h'; cases h'
  · rcases closeRound_cases (detectChanges (countStep u)).1 (detectChanges (countStep u)).2 with
      ⟨_, _, e2⟩ | ⟨_, hl, e2⟩ | ⟨hn, e2⟩ <;> rw [e2] at h ⊢
    · cases h
    · exact hl
    · exact absurd h hn

end Sys2Proof.Machine
end

