-- ==== Sys2Proof/Tests/Slice0.lean ====
section
/-! SUPPORT. The model's own tests: the checks of `WellFormed.lean` on ill-formed terms, words written out from the
spec's encodings, single steps whose expected values are the spec's examples, and for every statement with hypotheses
a concrete state and operands that meet them. -/

namespace Sys2Proof.Tests

open Sys2Proof Sys2Proof.Machine

/-! ## WellFormed: an ill-formed term for each check -/

theorem test_wellFormed_refuses_odd_jal : wellFormed (.jal 1#5 3#21) = false := by decide
theorem test_wellFormed_refuses_odd_beq : wellFormed (.beq 1#5 2#5 1#13) = false := by decide
theorem test_wellFormed_refuses_odd_bne : wellFormed (.bne 1#5 2#5 5#13) = false := by decide
theorem test_wellFormed_refuses_odd_blt : wellFormed (.blt 1#5 2#5 7#13) = false := by decide
theorem test_wellFormed_refuses_odd_bge : wellFormed (.bge 1#5 2#5 0x1fff#13) = false := by decide
theorem test_wellFormed_refuses_odd_bltu : wellFormed (.bltu 1#5 2#5 9#13) = false := by decide
theorem test_wellFormed_refuses_odd_bgeu : wellFormed (.bgeu 1#5 2#5 0xfff#13) = false := by decide
/-- The word of `addi` is not a word of `inv`. -/
theorem test_wellFormed_refuses_inv_of_a_real_word : wellFormed (.inv 0x00000013#32) = false := by decide
theorem test_wellFormed_admits_inv_of_zero : wellFormed (.inv 0#32) = true := by decide

/-! ## Words written out field by field from the formats of R47 and the templates of R61 -/

theorem test_decode_lui : decodeWord (0b10000000000000000001#20 ++ 0b00101#5 ++ 0b0110111#7) = .lui 5#5 0x80001#20 := by
  decide
theorem test_decode_auipc : decodeWord (0b00000000000000000001#20 ++ 0b00101#5 ++ 0b0010111#7) = .auipc 5#5 1#20 := by
  decide
theorem test_decode_addi : decodeWord (0b111111111111#12 ++ 0b00010#5 ++ 0b000#3 ++ 0b00001#5 ++ 0b0010011#7)
    = .addi 1#5 2#5 0xfff#12 := by decide
theorem test_decode_slti : decodeWord (0b100000000001#12 ++ 0b11111#5 ++ 0b010#3 ++ 0b00100#5 ++ 0b0010011#7)
    = .slti 4#5 31#5 0x801#12 := by decide
theorem test_decode_sltiu : decodeWord (0b000000000001#12 ++ 0b01010#5 ++ 0b011#3 ++ 0b01011#5 ++ 0b0010011#7)
    = .sltiu 11#5 10#5 1#12 := by decide
theorem test_decode_xori : decodeWord (0b111111111111#12 ++ 0b01010#5 ++ 0b100#3 ++ 0b01011#5 ++ 0b0010011#7)
    = .xori 11#5 10#5 0xfff#12 := by decide
theorem test_decode_ori : decodeWord (0b000000001111#12 ++ 0b01010#5 ++ 0b110#3 ++ 0b01011#5 ++ 0b0010011#7)
    = .ori 11#5 10#5 15#12 := by decide
theorem test_decode_andi : decodeWord (0b000011111111#12 ++ 0b01010#5 ++ 0b111#3 ++ 0b01011#5 ++ 0b0010011#7)
    = .andi 11#5 10#5 255#12 := by decide
theorem test_decode_slli : decodeWord (0b000000#6 ++ 0b011111#6 ++ 0b01010#5 ++ 0b001#3 ++ 0b01011#5 ++ 0b0010011#7)
    = .slli 11#5 10#5 31#6 := by decide
theorem test_decode_srli : decodeWord (0b000000#6 ++ 0b100001#6 ++ 0b01010#5 ++ 0b101#3 ++ 0b01011#5 ++ 0b0010011#7)
    = .srli 11#5 10#5 33#6 := by decide
theorem test_decode_srai : decodeWord (0b010000#6 ++ 0b000100#6 ++ 0b01010#5 ++ 0b101#3 ++ 0b01011#5 ++ 0b0010011#7)
    = .srai 11#5 10#5 4#6 := by decide
theorem test_decode_add : decodeWord (0b0000000#7 ++ 0b01011#5 ++ 0b11010#5 ++ 0b000#3 ++ 0b01100#5 ++ 0b0110011#7)
    = .add 12#5 26#5 11#5 := by decide
theorem test_decode_sub : decodeWord (0b0100000#7 ++ 0b01011#5 ++ 0b11010#5 ++ 0b000#3 ++ 0b01100#5 ++ 0b0110011#7)
    = .sub 12#5 26#5 11#5 := by decide
theorem test_decode_sll : decodeWord (0b0000000#7 ++ 0b01011#5 ++ 0b11010#5 ++ 0b001#3 ++ 0b01100#5 ++ 0b0110011#7)
    = .sll 12#5 26#5 11#5 := by decide
theorem test_decode_slt : decodeWord (0b0000000#7 ++ 0b01011#5 ++ 0b11010#5 ++ 0b010#3 ++ 0b01100#5 ++ 0b0110011#7)
    = .slt 12#5 26#5 11#5 := by decide
theorem test_decode_sltu : decodeWord (0b0000000#7 ++ 0b01011#5 ++ 0b11010#5 ++ 0b011#3 ++ 0b01100#5 ++ 0b0110011#7)
    = .sltu 12#5 26#5 11#5 := by decide
theorem test_decode_xor : decodeWord (0b0000000#7 ++ 0b01011#5 ++ 0b11010#5 ++ 0b100#3 ++ 0b01100#5 ++ 0b0110011#7)
    = .xor 12#5 26#5 11#5 := by decide
theorem test_decode_srl : decodeWord (0b0000000#7 ++ 0b01011#5 ++ 0b11010#5 ++ 0b101#3 ++ 0b01100#5 ++ 0b0110011#7)
    = .srl 12#5 26#5 11#5 := by decide
theorem test_decode_sra : decodeWord (0b0100000#7 ++ 0b01011#5 ++ 0b11010#5 ++ 0b101#3 ++ 0b01100#5 ++ 0b0110011#7)
    = .sra 12#5 26#5 11#5 := by decide
theorem test_decode_or : decodeWord (0b0000000#7 ++ 0b01011#5 ++ 0b11010#5 ++ 0b110#3 ++ 0b01100#5 ++ 0b0110011#7)
    = .or 12#5 26#5 11#5 := by decide
theorem test_decode_and : decodeWord (0b0000000#7 ++ 0b01011#5 ++ 0b11010#5 ++ 0b111#3 ++ 0b01100#5 ++ 0b0110011#7)
    = .and 12#5 26#5 11#5 := by decide
theorem test_decode_mul : decodeWord (0b0000001#7 ++ 0b01011#5 ++ 0b11010#5 ++ 0b000#3 ++ 0b01100#5 ++ 0b0110011#7)
    = .mul 12#5 26#5 11#5 := by decide
theorem test_decode_mulh : decodeWord (0b0000001#7 ++ 0b01011#5 ++ 0b11010#5 ++ 0b001#3 ++ 0b01100#5 ++ 0b0110011#7)
    = .mulh 12#5 26#5 11#5 := by decide
theorem test_decode_mulhsu : decodeWord (0b0000001#7 ++ 0b01011#5 ++ 0b11010#5 ++ 0b010#3 ++ 0b01100#5 ++ 0b0110011#7)
    = .mulhsu 12#5 26#5 11#5 := by decide
theorem test_decode_mulhu : decodeWord (0b0000001#7 ++ 0b01011#5 ++ 0b11010#5 ++ 0b011#3 ++ 0b01100#5 ++ 0b0110011#7)
    = .mulhu 12#5 26#5 11#5 := by decide
theorem test_decode_div : decodeWord (0b0000001#7 ++ 0b01011#5 ++ 0b11010#5 ++ 0b100#3 ++ 0b01100#5 ++ 0b0110011#7)
    = .div 12#5 26#5 11#5 := by decide
theorem test_decode_divu : decodeWord (0b0000001#7 ++ 0b01011#5 ++ 0b11010#5 ++ 0b101#3 ++ 0b01100#5 ++ 0b0110011#7)
    = .divu 12#5 26#5 11#5 := by decide
theorem test_decode_rem : decodeWord (0b0000001#7 ++ 0b01011#5 ++ 0b11010#5 ++ 0b110#3 ++ 0b01100#5 ++ 0b0110011#7)
    = .rem 12#5 26#5 11#5 := by decide
theorem test_decode_remu : decodeWord (0b0000001#7 ++ 0b01011#5 ++ 0b11010#5 ++ 0b111#3 ++ 0b01100#5 ++ 0b0110011#7)
    = .remu 12#5 26#5 11#5 := by decide
/-- `imm[20]` 1, `imm[10:1]` 1111111110, `imm[11]` 1, `imm[19:12]` all ones: the offset -4. -/
theorem test_decode_jal :
    decodeWord (0b1#1 ++ 0b1111111110#10 ++ 0b1#1 ++ 0b11111111#8 ++ 0b00000#5 ++ 0b1101111#7)
      = .jal 0#5 0x1ffffc#21 := by decide
/-- Only `imm[11]` is set. -/
theorem test_decode_jal_bit11 :
    decodeWord (0b0#1 ++ 0b0000000000#10 ++ 0b1#1 ++ 0b00000000#8 ++ 0b00001#5 ++ 0b1101111#7)
      = .jal 1#5 0x800#21 := by decide
theorem test_decode_jalr : decodeWord (0b000000000100#12 ++ 0b00001#5 ++ 0b000#3 ++ 0b00001#5 ++ 0b1100111#7)
    = .jalr 1#5 1#5 4#12 := by decide
/-- `imm[12]` 1, `imm[10:5]` 111111, `imm[4:1]` 1100, `imm[11]` 1: the offset -8. -/
theorem test_decode_beq :
    decodeWord (0b1#1 ++ 0b111111#6 ++ 0b01011#5 ++ 0b01010#5 ++ 0b000#3 ++ 0b1100#4 ++ 0b1#1 ++ 0b1100011#7)
      = .beq 10#5 11#5 0x1ff8#13 := by decide
/-- `imm[12]` 1, `imm[10:5]` 111111, `imm[4:1]` 1100, `imm[11]` 1: the offset -8. -/
theorem test_decode_bne :
    decodeWord (0b1#1 ++ 0b111111#6 ++ 0b01011#5 ++ 0b01010#5 ++ 0b001#3 ++ 0b1100#4 ++ 0b1#1 ++ 0b1100011#7)
      = .bne 10#5 11#5 0x1ff8#13 := by decide
/-- `imm[12]` 1, `imm[10:5]` 111111, `imm[4:1]` 1100, `imm[11]` 1: the offset -8. -/
theorem test_decode_blt :
    decodeWord (0b1#1 ++ 0b111111#6 ++ 0b01011#5 ++ 0b01010#5 ++ 0b100#3 ++ 0b1100#4 ++ 0b1#1 ++ 0b1100011#7)
      = .blt 10#5 11#5 0x1ff8#13 := by decide
/-- `imm[12]` 1, `imm[10:5]` 111111, `imm[4:1]` 1100, `imm[11]` 1: the offset -8. -/
theorem test_decode_bge :
    decodeWord (0b1#1 ++ 0b111111#6 ++ 0b01011#5 ++ 0b01010#5 ++ 0b101#3 ++ 0b1100#4 ++ 0b1#1 ++ 0b1100011#7)
      = .bge 10#5 11#5 0x1ff8#13 := by decide
/-- `imm[12]` 1, `imm[10:5]` 111111, `imm[4:1]` 1100, `imm[11]` 1: the offset -8. -/
theorem test_decode_bltu :
    decodeWord (0b1#1 ++ 0b111111#6 ++ 0b01011#5 ++ 0b01010#5 ++ 0b110#3 ++ 0b1100#4 ++ 0b1#1 ++ 0b1100011#7)
      = .bltu 10#5 11#5 0x1ff8#13 := by decide
/-- `imm[12]` 1, `imm[10:5]` 111111, `imm[4:1]` 1100, `imm[11]` 1: the offset -8. -/
theorem test_decode_bgeu :
    decodeWord (0b1#1 ++ 0b111111#6 ++ 0b01011#5 ++ 0b01010#5 ++ 0b111#3 ++ 0b1100#4 ++ 0b1#1 ++ 0b1100011#7)
      = .bgeu 10#5 11#5 0x1ff8#13 := by decide
/-- Only `imm[11]` is set. -/
theorem test_decode_beq_bit11 :
    decodeWord (0b0#1 ++ 0b000000#6 ++ 0b01011#5 ++ 0b01010#5 ++ 0b000#3 ++ 0b0000#4 ++ 0b1#1 ++ 0b1100011#7)
      = .beq 10#5 11#5 0x800#13 := by decide
theorem test_decode_lb : decodeWord (0b100000000010#12 ++ 0b01010#5 ++ 0b000#3 ++ 0b01011#5 ++ 0b0000011#7)
    = .lb 11#5 10#5 0x802#12 := by decide
theorem test_decode_lh : decodeWord (0b100000000010#12 ++ 0b01010#5 ++ 0b001#3 ++ 0b01011#5 ++ 0b0000011#7)
    = .lh 11#5 10#5 0x802#12 := by decide
theorem test_decode_lw : decodeWord (0b100000000010#12 ++ 0b01010#5 ++ 0b010#3 ++ 0b01011#5 ++ 0b0000011#7)
    = .lw 11#5 10#5 0x802#12 := by decide
theorem test_decode_lbu : decodeWord (0b100000000010#12 ++ 0b01010#5 ++ 0b100#3 ++ 0b01011#5 ++ 0b0000011#7)
    = .lbu 11#5 10#5 0x802#12 := by decide
theorem test_decode_lhu : decodeWord (0b100000000010#12 ++ 0b01010#5 ++ 0b101#3 ++ 0b01011#5 ++ 0b0000011#7)
    = .lhu 11#5 10#5 0x802#12 := by decide
theorem test_decode_sb :
    decodeWord (0b1000000#7 ++ 0b01011#5 ++ 0b01010#5 ++ 0b000#3 ++ 0b00010#5 ++ 0b0100011#7)
      = .sb 10#5 11#5 0x802#12 := by decide
theorem test_decode_sh :
    decodeWord (0b1000000#7 ++ 0b01011#5 ++ 0b01010#5 ++ 0b001#3 ++ 0b00010#5 ++ 0b0100011#7)
      = .sh 10#5 11#5 0x802#12 := by decide
theorem test_decode_sw :
    decodeWord (0b1000000#7 ++ 0b01011#5 ++ 0b01010#5 ++ 0b010#3 ++ 0b00010#5 ++ 0b0100011#7)
      = .sw 10#5 11#5 0x802#12 := by decide
theorem test_decode_ebreak :
    decodeWord (0b0000000#7 ++ 0b00001#5 ++ 0b00000#5 ++ 0b000#3 ++ 0b00000#5 ++ 0b1110011#7) = .ebreak := by decide
/-- `ecall` is not in the block (R143). -/
theorem test_decode_inv : decodeWord 0x00000073#32 = .inv 0x00000073#32 := by decide
theorem test_decodeBytes_truncated : decodeBytes [0x13#8, 0#8, 0#8] = .error .truncated := by decide

/-! ## Single steps: the examples of the rules -/

/-- A state about to run one word at `pc`, with `ra`, `a0` and `a1`, and the words 0x8899aabb and 0xccddeeff at
0x80001000 (the memory of the examples of R121 to R125). -/
def ready (word pc ra a0 a1 : Nat) : State :=
  State.withFetchWord
    { (((State.reset.setPc (BitVec.ofNat 32 pc)).writeReg 1#5 (BitVec.ofNat 32 ra)).writeReg 10#5
        (BitVec.ofNat 32 a0)).writeReg 11#5 (BitVec.ofNat 32 a1) with
      mem := Memory.write (Memory.write [] 0x80001000#32 0x8899aabb#32 .four) 0x80001004#32 0xccddeeff#32 .four }
    32 word

/-- A register and `pc` after the step. -/
def regAfter (r : RegIdx) (s : State) : Option (Word × Word) :=
  match step s with
  | .next t => some (t.readReg r, t.pc)
  | _ => none

/-- The word at 0x80001000 and `pc` after the step. -/
def wordAfter (s : State) : Option (Word × Word) :=
  match step s with
  | .next t => some (Memory.read t.mem 0x80001000#32 .four, t.pc)
  | _ => none

/-- The run state, `trap_pc` and `pc` after the step. -/
def trapAfter (s : State) : Option (RunState × Word × Word) :=
  match step s with
  | .next t => some (t.runState, t.trapPc, t.pc)
  | _ => none

/-- R94. -/
theorem test_lui : regAfter 5#5 (ready 0x800012b7 0x80000000 0x0 0x0 0x0)
    = some (0x80001000#32, 0x80000004#32) := by decide
/-- R95. -/
theorem test_auipc : regAfter 5#5 (ready 0x00001297 0x80000010 0x0 0x0 0x0)
    = some (0x80001010#32, 0x80000014#32) := by decide
/-- R95. -/
theorem test_auipc_wraps : regAfter 10#5 (ready 0xfffff517 0x00000800 0x0 0x0 0x0)
    = some (0xfffff800#32, 0x804#32) := by decide
/-- R85. -/
theorem test_addi : regAfter 10#5 (ready 0xfff50513 0x80000000 0x0 0x0 0x0)
    = some (0xffffffff#32, 0x80000004#32) := by decide
/-- R85. -/
theorem test_addi_to_zero : regAfter 0#5 (ready 0x00728013 0x80000000 0x0 0x0 0x0)
    = some (0x0#32, 0x80000004#32) := by decide
/-- R86. -/
theorem test_slti : regAfter 11#5 (ready 0xfff52593 0x80000000 0x0 0xfffffffe 0x0)
    = some (0x1#32, 0x80000004#32) := by decide
/-- R87. -/
theorem test_sltiu : regAfter 11#5 (ready 0xfff53593 0x80000000 0x0 0xfffffffe 0x0)
    = some (0x1#32, 0x80000004#32) := by decide
/-- R88. -/
theorem test_xori : regAfter 11#5 (ready 0xfff54593 0x80000000 0x0 0xff00 0x0)
    = some (0xffff00ff#32, 0x80000004#32) := by decide
/-- R89. -/
theorem test_ori : regAfter 11#5 (ready 0x00f56593 0x80000000 0x0 0xff00 0x0)
    = some (0xff0f#32, 0x80000004#32) := by decide
/-- R90. -/
theorem test_andi : regAfter 11#5 (ready 0x0ff57593 0x80000000 0x0 0x12345678 0x0)
    = some (0x78#32, 0x80000004#32) := by decide
/-- R91. -/
theorem test_slli : regAfter 11#5 (ready 0x01f51593 0x80000000 0x0 0x3 0x0)
    = some (0x80000000#32, 0x80000004#32) := by decide
/-- R92. -/
theorem test_srli : regAfter 11#5 (ready 0x00455593 0x80000000 0x0 0x87654321 0x0)
    = some (0x8765432#32, 0x80000004#32) := by decide
/-- R93. -/
theorem test_srai : regAfter 11#5 (ready 0x40455593 0x80000000 0x0 0x87654321 0x0)
    = some (0xf8765432#32, 0x80000004#32) := by decide
/-- R100. -/
theorem test_add : regAfter 12#5 (ready 0x00b50633 0x80000000 0x0 0x7fffffff 0x1)
    = some (0x80000000#32, 0x80000004#32) := by decide
/-- R101. -/
theorem test_sub : regAfter 12#5 (ready 0x40b50633 0x80000000 0x0 0x0 0x1)
    = some (0xffffffff#32, 0x80000004#32) := by decide
/-- R102. -/
theorem test_sll : regAfter 12#5 (ready 0x00b51633 0x80000000 0x0 0x1 0x21)
    = some (0x2#32, 0x80000004#32) := by decide
/-- R103. -/
theorem test_slt : regAfter 12#5 (ready 0x00b52633 0x80000000 0x0 0x80000000 0x0)
    = some (0x1#32, 0x80000004#32) := by decide
/-- R104. -/
theorem test_sltu : regAfter 12#5 (ready 0x00b53633 0x80000000 0x0 0x80000000 0x0)
    = some (0x0#32, 0x80000004#32) := by decide
/-- R105. -/
theorem test_xor : regAfter 12#5 (ready 0x00b54633 0x80000000 0x0 0xff00ff00 0xff00ff0)
    = some (0xf0f0f0f0#32, 0x80000004#32) := by decide
/-- R106. -/
theorem test_srl : regAfter 12#5 (ready 0x00b55633 0x80000000 0x0 0x80000000 0x1f)
    = some (0x1#32, 0x80000004#32) := by decide
/-- R107. -/
theorem test_sra : regAfter 12#5 (ready 0x40b55633 0x80000000 0x0 0x80000000 0x1f)
    = some (0xffffffff#32, 0x80000004#32) := by decide
/-- R108. -/
theorem test_or : regAfter 12#5 (ready 0x00b56633 0x80000000 0x0 0xff00ff00 0xff00ff0)
    = some (0xfff0fff0#32, 0x80000004#32) := by decide
/-- R109. -/
theorem test_and : regAfter 12#5 (ready 0x00b57633 0x80000000 0x0 0xff00ff00 0xff00ff0)
    = some (0xf000f00#32, 0x80000004#32) := by decide
/-- R110. -/
theorem test_jal : regAfter 1#5 (ready 0x008000ef 0x80000000 0x0 0x0 0x0)
    = some (0x80000004#32, 0x80000008#32) := by decide
/-- R110. -/
theorem test_jal_backwards : regAfter 0#5 (ready 0xffdff06f 0x80000010 0x0 0x0 0x0)
    = some (0x0#32, 0x8000000c#32) := by decide
/-- R111. -/
theorem test_jalr_rd_is_rs1 : regAfter 1#5 (ready 0x004080e7 0x80000020 0x80000101 0x0 0x0)
    = some (0x80000024#32, 0x80000104#32) := by decide
/-- R121. -/
theorem test_lb : regAfter 11#5 (ready 0x00150583 0x80000000 0x0 0x80001000 0x0)
    = some (0xffffffaa#32, 0x80000004#32) := by decide
/-- R122. -/
theorem test_lh : regAfter 11#5 (ready 0x00251583 0x80000000 0x0 0x80001000 0x0)
    = some (0xffff8899#32, 0x80000004#32) := by decide
/-- R123. -/
theorem test_lw : regAfter 11#5 (ready 0x00052583 0x80000000 0x0 0x80001000 0x0)
    = some (0x8899aabb#32, 0x80000004#32) := by decide
/-- R123. -/
theorem test_lw_misaligned : regAfter 11#5 (ready 0x00252583 0x80000000 0x0 0x80001000 0x0)
    = some (0xeeff8899#32, 0x80000004#32) := by decide
/-- R124. -/
theorem test_lbu : regAfter 11#5 (ready 0x00154583 0x80000000 0x0 0x80001000 0x0)
    = some (0xaa#32, 0x80000004#32) := by decide
/-- R125. -/
theorem test_lhu : regAfter 11#5 (ready 0x00255583 0x80000000 0x0 0x80001000 0x0)
    = some (0x8899#32, 0x80000004#32) := by decide
/-- R131. -/
theorem test_mul : regAfter 12#5 (ready 0x02b50633 0x80000000 0x0 0xffffffff 0xffffffff)
    = some (0x1#32, 0x80000004#32) := by decide
/-- R132. -/
theorem test_mulh : regAfter 12#5 (ready 0x02b51633 0x80000000 0x0 0x80000000 0x80000000)
    = some (0x40000000#32, 0x80000004#32) := by decide
/-- R133. -/
theorem test_mulhsu : regAfter 12#5 (ready 0x02b52633 0x80000000 0x0 0xffffffff 0xffffffff)
    = some (0xffffffff#32, 0x80000004#32) := by decide
/-- R134. -/
theorem test_mulhu : regAfter 12#5 (ready 0x02b53633 0x80000000 0x0 0xffffffff 0xffffffff)
    = some (0xfffffffe#32, 0x80000004#32) := by decide
/-- R135. -/
theorem test_div : regAfter 12#5 (ready 0x02b54633 0x80000000 0x0 0xfffffff9 0x2)
    = some (0xfffffffd#32, 0x80000004#32) := by decide
/-- R135. -/
theorem test_div_overflow : regAfter 12#5 (ready 0x02b54633 0x80000000 0x0 0x80000000 0xffffffff)
    = some (0x80000000#32, 0x80000004#32) := by decide
/-- R136. -/
theorem test_divu_by_zero : regAfter 12#5 (ready 0x02b55633 0x80000000 0x0 0x5 0x0)
    = some (0xffffffff#32, 0x80000004#32) := by decide
/-- R136. -/
theorem test_divu : regAfter 12#5 (ready 0x02b55633 0x80000000 0x0 0xfffffff9 0x2)
    = some (0x7ffffffc#32, 0x80000004#32) := by decide
/-- R137. -/
theorem test_rem : regAfter 12#5 (ready 0x02b56633 0x80000000 0x0 0xfffffff9 0x2)
    = some (0xffffffff#32, 0x80000004#32) := by decide
/-- R137. -/
theorem test_rem_sign_of_dividend : regAfter 12#5 (ready 0x02b56633 0x80000000 0x0 0x7 0xfffffffe)
    = some (0x1#32, 0x80000004#32) := by decide
/-- R138. -/
theorem test_remu : regAfter 12#5 (ready 0x02b57633 0x80000000 0x0 0xfffffff9 0x2)
    = some (0x1#32, 0x80000004#32) := by decide
/-- R112. -/
theorem test_beq_taken : regAfter 0#5 (ready 0xfeb50ce3 0x80000010 0 0x5 0x5)
    = some (0#32, 0x80000008#32) := by decide
/-- R112. -/
theorem test_beq_not_taken : regAfter 0#5 (ready 0xfeb50ce3 0x80000010 0 0x5 0x6)
    = some (0#32, 0x80000014#32) := by decide
/-- R113. -/
theorem test_bne_taken : regAfter 0#5 (ready 0xfeb51ce3 0x80000010 0 0x5 0x6)
    = some (0#32, 0x80000008#32) := by decide
/-- R113. -/
theorem test_bne_not_taken : regAfter 0#5 (ready 0xfeb51ce3 0x80000010 0 0x5 0x5)
    = some (0#32, 0x80000014#32) := by decide
/-- R114. -/
theorem test_blt_taken : regAfter 0#5 (ready 0xfeb54ce3 0x80000010 0 0xffffffff 0x1)
    = some (0#32, 0x80000008#32) := by decide
/-- R114. -/
theorem test_blt_not_taken : regAfter 0#5 (ready 0xfeb54ce3 0x80000010 0 0x1 0xffffffff)
    = some (0#32, 0x80000014#32) := by decide
/-- R115. -/
theorem test_bge_taken : regAfter 0#5 (ready 0xfeb55ce3 0x80000010 0 0x1 0xffffffff)
    = some (0#32, 0x80000008#32) := by decide
/-- R115. -/
theorem test_bge_not_taken : regAfter 0#5 (ready 0xfeb55ce3 0x80000010 0 0xffffffff 0x1)
    = some (0#32, 0x80000014#32) := by decide
/-- R116. -/
theorem test_bltu_taken : regAfter 0#5 (ready 0xfeb56ce3 0x80000010 0 0x1 0xffffffff)
    = some (0#32, 0x80000008#32) := by decide
/-- R116. -/
theorem test_bltu_not_taken : regAfter 0#5 (ready 0xfeb56ce3 0x80000010 0 0xffffffff 0x1)
    = some (0#32, 0x80000014#32) := by decide
/-- R117. -/
theorem test_bgeu_taken : regAfter 0#5 (ready 0xfeb57ce3 0x80000010 0 0xffffffff 0x1)
    = some (0#32, 0x80000008#32) := by decide
/-- R117. -/
theorem test_bgeu_not_taken : regAfter 0#5 (ready 0xfeb57ce3 0x80000010 0 0x1 0xffffffff)
    = some (0#32, 0x80000014#32) := by decide
/-- R126: one byte of the word at 0x80001000 changes. -/
theorem test_sb : wordAfter (ready 0x00b500a3 0x80000000 0 0x80001000 0x12345678)
    = some (0x889978bb#32, 0x80000004#32) := by decide
/-- R127. -/
theorem test_sh : wordAfter (ready 0x00b51123 0x80000000 0 0x80001000 0x12345678)
    = some (0x5678aabb#32, 0x80000004#32) := by decide
/-- R128. -/
theorem test_sw : wordAfter (ready 0x00b52023 0x80000000 0 0x80001000 0x12345678)
    = some (0x12345678#32, 0x80000004#32) := by decide
/-- R140. -/
theorem test_ebreak : trapAfter (ready 0x00100073 0x80000014 0 0x37 0)
    = some (.trappedOk, 0x80000014#32, 0x80000018#32) := by decide
/-- R141. -/
theorem test_inv : trapAfter (ready 0x00000000 0x80000008 0 0 0)
    = some (.trappedBad, 0x80000008#32, 0x8000000c#32) := by decide
/-- R96, under `invalid`. -/
theorem test_srli_mode_bit : trapAfter (ready 0x02155593 0x80000000 0 0 0x55)
    = some (.trappedBad, 0x80000000#32, 0x80000004#32) := by decide
/-- R96, under `nop`. -/
theorem test_srli_mode_bit_nop :
    regAfter 11#5 { ready 0x02155593 0x80000000 0 0 0x55 with cfg := { Config.default with shamt5Policy := .nop } }
      = some (0x55#32, 0x80000004#32) := by decide

/-! ## Witnesses: a concrete state and operands for the hypotheses of each statement -/

/-- A state between runs with these inputs. -/
def waiting (r : RunState) (inputs : List Input) : State := { State.reset with runState := r, inputs := inputs }

/-- A memory that admits the addresses below 0x80000004 only. -/
def lowMemory : Config := { Config.default with admitted := some [{ base := 0, size := 0x80000004 }] }

/-- A state with slot 3 active on a text with a cached value, before a step of one word. -/
def watching (word : Nat) (text : String) (last : Word) : State :=
  { ready word 0x80000000 0 7 0 with
    freeList := [0, 1, 2] ++ (List.finRange 32).drop 4
    activeList := [3] } |>.setSlot 3 { expr := text.toList, last := last }

/-- The state an instruction leaves, before the count and the scan. -/
def executed (i : Instr) (s : State) : State :=
  match exec i (fetched s.clearOutputs) with
  | .next u => u
  | _ => s

/-- DecodeOfEncodeIsTheInstruction: a branch at the end of its range and the word of all ones. -/
theorem witness_roundtrip : wellFormed (.bgeu 31#5 31#5 0x1ffe#13) = true ∧ wellFormed (.inv 0xffffffff#32) = true := by
  decide

/-- UnknownOpcodeClassesAreInvalid: a word of each class. -/
theorem witness_unknown_classes :
    (0xfffffffe#32 : Word).extractLsb' 0 2 ≠ 0b11#2
    ∧ ((0x10500073#32 : Word).extractLsb' 0 7 = 0b1110011#7 ∧ 0x10500073#32 ≠ 0x00100073#32)
    ∧ (0x0ff0000f#32 : Word).extractLsb' 0 7 = 0b0001111#7 := by decide

/-- FirstMatchFollowsDeclaredOrder, TemplateConversionIsBitByBit: a matching entry, a text that does not convert. -/
theorem witness_match_and_template :
    (firstMatch defaultTable 0x00000013#32).map Entry.action = some .addi
    ∧ convertTemplate "0101".toList = .error .badTemplate := by decide

/-- StepRunsTheDecodedInstruction: `addi a0, a0, 1` at `pc`; and the zero word, which no halt pattern matches. -/
theorem witness_step :
    (let s := ready 0x00150513 0x80000000 0 0 0
     s.cfg.patternTable = defaultTable ∧ RunnableState s ∧ wellFormed (.addi 10#5 10#5 1#12) = true ∧ s.admitsAccess s.pc .four = true
      ∧ Memory.byte s.mem s.pc = (encode (.addi 10#5 10#5 1#12)).extractLsb' 0 8
      ∧ Memory.byte s.mem (s.pc + 1#32) = (encode (.addi 10#5 10#5 1#12)).extractLsb' 8 8
      ∧ Memory.byte s.mem (s.pc + 2#32) = (encode (.addi 10#5 10#5 1#12)).extractLsb' 16 8
      ∧ Memory.byte s.mem (s.pc + 3#32) = (encode (.addi 10#5 10#5 1#12)).extractLsb' 24 8)
    ∧ (let s := ready 0 0x80000000 0 0 0
       RunnableState s ∧ wellFormed (.inv 0#32) = true ∧ ∀ p ∈ s.cfg.haltPatterns, (0#32 : Word) &&& p.mask ≠ p.value) := by
  unfold RunnableState; decide

/-- HaltPatternsStandBeforeTheCatchAll: `ecall` as the one halt pattern, and a word of `addi` beside it. -/
theorem witness_halt_pattern :
    let s := { ready 0x00000073 0x80000000 0 0 0 with
      cfg := { Config.default with haltPatterns := [⟨0xffffffff#32, 0x00000073#32⟩] } }
    s.cfg.patternTable = defaultTable ∧ (s.runState = .running ∧ s.progress.left ≠ some 0)
      ∧ s.fetchWord = some 0x00000073#32
      ∧ (∀ e ∈ realEntries, 0x00000073#32 &&& e.mask ≠ e.value)
      ∧ (∃ p ∈ s.cfg.haltPatterns, 0x00000073#32 &&& p.mask = p.value)
      ∧ ∃ e ∈ realEntries, 0x00000013#32 &&& e.mask = e.value := by decide

/-- A table in which the less specific `addi` stands before `slti`, and no catch-all (R62, R63). -/
def shadowing : List Entry := [⟨0x7f#32, 0x13#32, .I, .addi⟩, ⟨0x707f#32, 0x2013#32, .I, .slti⟩]

/-- AnyTableRunsItsFirstMatchingAction: a table with a catch-all, one without and the empty one, a step over a table, and
an entry under its action's own tag. -/
theorem witness_table :
    (let cfg := { Config.default with haltPatterns := [⟨0x7f#32, 0x73#32⟩] }
     cfg.patternTable = realEntries ++ [invEntry] ∧ invEntry.mask = 0#32 ∧ invEntry.value = 0#32)
    ∧ (∀ before last, shadowing = before ++ [last] → ¬(last.mask = 0#32 ∧ last.value = 0#32))
    ∧ (∀ (before : List Entry) last, [] = before ++ [last] → ¬(last.mask = 0#32 ∧ last.value = 0#32))
    ∧ (let s := { ready 0x00052513 0x80000000 0 0 0 with cfg := { Config.default with patternTable := shadowing } }
       (s.runState = .running ∧ s.progress.left ≠ some 0) ∧ s.fetchWord = some 0x00052513#32)
    ∧ (⟨0x7f#32, 0x13#32, .I, .addi⟩ : Entry).tag = Action.addi.tag
    ∧ Action.addi.instr 0x00150513#32 = some (.addi 10#5 10#5 1#12) := by
  refine ⟨by decide, fun before last h => ?_, fun before last h => ?_, by decide, rfl, by decide⟩
  · have e : some (⟨0x707f#32, 0x2013#32, .I, .slti⟩ : Entry) = some last := by
      have h' := congrArg List.getLast? h
      rwa [List.getLast?_concat] at h'
    cases e
    decide
  · simp at h

/-- StartUpConvertsEveryTemplate: lists that convert, and one that does not. -/
theorem witness_start_up :
    [(⟨"??????? ????? ????? 000 ????? 00100 11".toList, .I, .addi⟩ : TemplateEntry)].map TemplateEntry.convert
      = [(⟨0x707f#32, 0x13#32, .I, .addi⟩ : Entry)].map .ok
    ∧ ["0000000 00000 00000 000 00000 11100 11".toList].map convertTemplate
      = [(⟨0xffffffff#32, 0x00000073#32⟩ : Pattern)].map .ok
    ∧ (∃ d ∈ [(⟨"2".toList, .I, .addi⟩ : TemplateEntry)], convertTemplate d.template = .error .badTemplate)
    ∧ ∃ text ∈ ["01".toList], convertTemplate text = .error .badTemplate :=
  ⟨by decide, by decide, ⟨_, List.mem_singleton.mpr rfl, by decide⟩, ⟨_, List.mem_singleton.mpr rfl, by decide⟩⟩

/-- AccessesOutsideTheAdmittedSetAreFatal, LoadResults, StoreResults: accesses that are not admitted, the first one byte
past the end, and a fetch that is not. -/
theorem witness_not_admitted :
    let s := { ready 0x00150513 0x80000001 0 0x80000001 0 with cfg := lowMemory }
    (s.runState = .running ∧ s.progress.left ≠ some 0) ∧ s.admitsAccess s.pc .four = false
      ∧ s.admitsAccess (operandsI 11#5 10#5 3#12 s).address .one = false
      ∧ s.admitsAccess (operandsI 11#5 10#5 2#12 s).address .two = false
      ∧ s.admitsAccess (operandsI 11#5 10#5 0#12 s).address .four = false
      ∧ s.admitsAccess (operandsS 10#5 11#5 3#12 s).address .one = false
      ∧ s.admitsAccess (operandsS 10#5 11#5 2#12 s).address .two = false
      ∧ s.admitsAccess (operandsS 10#5 11#5 0#12 s).address .four = false := by decide

/-- LoadResults, StoreResults, StoredWordIsWhatTheNextFetchGives: accesses that are admitted, up to the last byte, in a
canonical memory. -/
theorem witness_admitted :
    let s := { ready 0x00150513 0x80000000 0 0x80000000 0 with cfg := lowMemory }
    Memory.wf s.mem
      ∧ s.admitsAccess (operandsI 11#5 10#5 3#12 s).address .one = true
      ∧ s.admitsAccess (operandsI 11#5 10#5 2#12 s).address .two = true
      ∧ s.admitsAccess (operandsI 11#5 10#5 0#12 s).address .four = true
      ∧ s.admitsAccess (operandsS 10#5 11#5 3#12 s).address .one = true
      ∧ s.admitsAccess (operandsS 10#5 11#5 2#12 s).address .two = true
      ∧ s.admitsAccess (operandsS 10#5 11#5 0#12 s).address .four = true
      ∧ (operandsS 10#5 11#5 4#12 s).address = s.pc + 4#32 := by decide

/-- MemoryIsLittleEndian: a canonical memory, and an address outside a write that wraps at the top. -/
theorem witness_memory :
    Memory.wf [(0, 0x01#8), (0xffffffff, 0x80#8)] ∧ (2#32 : Word) ∉ Width.four.addrs 0xfffffffe#32
    ∧ (Width.four.addrs 0xfffffffe#32)[3]? = some 1#32 := by decide

/-- PoolAndMemoryStayConsistent: a running state with an active watchpoint meets the invariant, and steps. -/
theorem witness_invariant : Inv (watching 0x00150513 "$a0" 7#32)
    ∧ ∃ t, step (watching 0x00150513 "$a0" 7#32) = .next t ∧ t.runState = .stopped := by
  refine ⟨⟨by decide, by unfold PoolPartition; decide, by unfold FreeSlotsClear; decide, ?_, by decide⟩, ?_⟩
  · intro h hh
    have e : h = 3 := by
      have := List.mem_singleton.mp (show h ∈ ([3] : List SlotIdx) from hh)
      exact this
    subst e
    exact ⟨[{ type := .reg, text := "$a0".toList }], by decide, by decide, by decide, by decide⟩
  · exact ⟨_, rfl, by decide⟩

/-- ParametersNeverChange, RunStateTransitionTable: a step to a next state, and one with no input. -/
theorem witness_next : (∃ t, step State.reset = .next t) ∧ State.reset.runState ≠ .running ∧ State.reset.inputs = [] := by
  exact ⟨⟨_, rfl⟩, by decide, rfl⟩

/-- ShiftImmediateResults: the amounts where the clauses meet; ShiftImmediateWithModeBitIsRejected: a word of each entry;
and both policies. -/
theorem witness_shift :
    (31#6 : BitVec 6).toNat < 32 ∧ 32 ≤ (32#6 : BitVec 6).toNat
    ∧ (0x02051593#32 : Word) &&& 0xfc00707f#32 = 0x00001013#32 ∧ (0x02051593#32 : Word).getLsbD 25 = true
    ∧ (0x02155593#32 : Word) &&& 0xfc00707f#32 = 0x00005013#32 ∧ (0x02155593#32 : Word).getLsbD 25 = true
    ∧ (0x43f55593#32 : Word) &&& 0xfc00707f#32 = 0x40005013#32 ∧ (0x43f55593#32 : Word).getLsbD 25 = true
    ∧ State.reset.cfg.shamt5Policy = .invalid
    ∧ ({ State.reset with cfg := { Config.default with shamt5Policy := .nop } } : State).cfg.shamt5Policy = .nop := by
  decide

/-- The rows of the table, LoadResults to DebugTrapRecordsTheReturnValue: a word that matches each mask used. -/
theorem witness_rows :
    (0x800012b7#32 : Word) &&& 0x7f#32 = 0x37#32 ∧ (0x00001297#32 : Word) &&& 0x7f#32 = 0x17#32
    ∧ (0xfff50513#32 : Word) &&& 0x707f#32 = 0x13#32 ∧ (0x00b50633#32 : Word) &&& 0xfe00707f#32 = 0x33#32
    ∧ (0x008000ef#32 : Word) &&& 0x7f#32 = 0x6f#32 ∧ (0xfeb50ce3#32 : Word) &&& 0x707f#32 = 0x63#32
    ∧ (0x00150583#32 : Word) &&& 0x707f#32 = 0x03#32 ∧ (0x00b500a3#32 : Word) &&& 0x707f#32 = 0x23#32
    ∧ (0x02b50633#32 : Word) &&& 0xfe00707f#32 = 0x02000033#32
    ∧ (0x00100073#32 : Word) &&& 0xffffffff#32 = 0x00100073#32
    ∧ ∀ e ∈ realEntries, (0#32 : Word) &&& e.mask ≠ e.value := by decide

/-- MultiplyAndDivideLaws: operands next to the two special cases. -/
theorem witness_divide :
    (0xffffffff#32 : Word) ≠ 0#32 ∧ ¬((0x80000001#32 : Word) = 0x80000000#32 ∧ (0xffffffff#32 : Word) = 0xffffffff#32)
    ∧ 0 ≤ (0x7fffffff#32 : Word).toInt ∧ (0x80000000#32 : Word).toInt ≤ 0 := by decide

/-- HaltActionInBothForms, RunStateTransitionTable, ResetCommandValues, QuitAndTheRefusalsAfterIt,
QueriesReadAndChangeNothing: commands given between runs, in the states of each clause. -/
theorem witness_given :
    Given (waiting .stopped [.command (.haltReq 5#32)]) (.haltReq 5#32) []
    ∧ Given (waiting .halted [.command (.haltReq 5#32)]) (.haltReq 5#32) []
    ∧ Given (waiting .fatal [.command .reset, .command .quit]) .reset [.command .quit]
    ∧ Given (waiting .halted [.command .quit]) .quit []
    ∧ (Given (waiting .quit [.command .quit]) .quit [] ∧ Command.quit ≠ .reset ∧ ∀ q, Command.quit ≠ .query q)
    ∧ (Given (waiting .fatal [.command (.run 1)]) (.run 1) [] ∧ Command.run 1 ≠ .reset
      ∧ ∀ q, Command.run 1 ≠ .query q)
    ∧ Given (waiting .trappedBad [.command (.query .haltRet)]) (.query .haltRet) []
    ∧ (waiting .stopped [.memoryWrite 0#32 1#8]).inputs = .memoryWrite 0#32 1#8 :: [] := by
  unfold Given
  refine ⟨?_, ?_, ?_, ?_, ⟨?_, ?_, nofun⟩, ⟨?_, ?_, nofun⟩, ?_, ?_⟩ <;> decide

/-- RunCommandEntry: the counts where its clauses meet. -/
theorem witness_run_entry :
    (Given (waiting .stopped [.command (.run (-2))]) (.run (-2)) [] ∧ (-2 : Int) < -1)
    ∧ (Given (waiting .halted [.command (.run (-1))]) (.run (-1)) [] ∧ (-1 : Int) ≤ -1)
    ∧ Given (waiting .stopped [.command (.run 0)]) (.run 0) []
    ∧ Given (waiting .stopped [.command (.run (-1))]) (.run (-1)) []
    ∧ (Given (waiting .stopped [.command (.run 1)]) (.run 1) [] ∧ (0 : Int) < 1) := by
  unfold Given; decide

/-- RunEndsWithinItsStepCount, TotalMemoryRunsAreNeverFatal: a run with one step left over a total byte map. -/
theorem witness_run :
    let s := { ready 0x00150513 0x80000000 0 0 0 with progress := { left := some 1, done := 4 } }
    s.runState = .running ∧ s.progress.left = some (0 + 1) ∧ s.cfg.admitted = none ∧ s.activeList = []
      ∧ ∃ t, step s = .next t := by
  exact ⟨rfl, rfl, rfl, rfl, _, rfl⟩

/-- RunStateTransitionTable, ScanFollowsEveryExecutedStep: a normal step, a trap and a fatal load, each as
`AfterExecOnce` asks, and a fetch that fails. -/
theorem witness_after_exec :
    (AfterExecOnce (watching 0x00150513 "$a0" 7#32) (executed (.addi 10#5 10#5 1#12) (watching 0x00150513 "$a0" 7#32))
      ∧ (executed (.addi 10#5 10#5 1#12) (watching 0x00150513 "$a0" 7#32)).runState = .running)
    ∧ (AfterExecOnce (watching 0x00100073 "$a0" 7#32) (executed .ebreak (watching 0x00100073 "$a0" 7#32))
      ∧ (executed .ebreak (watching 0x00100073 "$a0" 7#32)).runState = .trappedOk)
    ∧ (let s := { ready 0x00052583 0x80000000 0 0x80000004 0 with cfg := lowMemory }
       AfterExecOnce s (executed (.lw 11#5 10#5 0#12) s) ∧ (executed (.lw 11#5 10#5 0#12) s).runState = .fatal)
    ∧ ({ ready 0x00052583 0x80000001 0 0 0 with cfg := lowMemory } : State).fetchWord = none := by
  refine ⟨⟨⟨0x00150513#32, by decide, rfl⟩, by decide⟩, ⟨⟨0x00100073#32, by decide, rfl⟩, by decide⟩,
    ⟨⟨0x00052583#32, by decide, rfl⟩, by decide⟩, by decide⟩

/-- RunStateTransitionTable, ScanFollowsEveryExecutedStep: a scan that finds a change, one that finds none, and one
that is fatal, after a normal step. -/
theorem witness_scan_outcomes :
    (detectChanges (countStep (executed (.addi 10#5 10#5 1#12) (watching 0x00150513 "$a0" 7#32)))).1 ≠ []
    ∧ (detectChanges (countStep (executed (.addi 10#5 10#5 1#12) (watching 0x00150513 "$a1" 0#32)))).1 = []
    ∧ (detectChanges (countStep (executed (.addi 10#5 10#5 1#12) (watching 0x00150513 "$a1" 0#32)))).2.runState
      = .running
    ∧ (detectChanges (countStep (executed (.addi 10#5 10#5 1#12) (watching 0x00150513 "1/$a1" 0#32)))).2.runState
      = .fatal := by decide

/-- PortCallsOfAStep: a load with an active watchpoint that has a value. -/
theorem witness_port :
    let s := watching 0x00052583 "*$a0" 0#32
    (s.runState = .running ∧ s.progress.left ≠ some 0) ∧ s.fetchWord = some 0x00052583#32
      ∧ firstMatch s.cfg.table 0x00052583#32 = some ⟨0x707f#32, 0x2003#32, .I, .lw⟩
      ∧ AfterExecOnce s (executed (.lw 11#5 10#5 0#12) s)
      ∧ (executed (.lw 11#5 10#5 0#12) s).runState ≠ .fatal
      ∧ (exprValue (executed (.lw 11#5 10#5 0#12) s) "*$a0".toList).2 = .ok 0#32
      ∧ ∃ t, step s = .next t := by
  exact ⟨by decide, by decide, by decide, ⟨0x00052583#32, by decide, rfl⟩, by decide, by decide, _, rfl⟩

/-- ThirtyTwoAllocationsThenNone: the pool after reset, and an allocation. -/
theorem witness_allocate :
    State.reset.freeList = List.finRange 32 ∧ State.reset.activeList = [] ∧ ∃ p, allocate State.reset = some p := by
  exact ⟨rfl, rfl, _, rfl⟩

/-- WatchpointSetOutcomes: a text for each outcome, and a full pool. -/
theorem witness_wp_set :
    (Given (waiting .stopped [.command (.wpSet "$a0".toList)]) (.wpSet "$a0".toList) []
      ∧ AcceptsWatchpoints (waiting .stopped [.command (.wpSet "$a0".toList)])
      ∧ (exprValue State.reset "$a0".toList).2 = .ok 0#32
      ∧ exceeds "$a0".toList.length State.reset.cfg.maxExprLen = false
      ∧ State.reset.freeList = 0 :: (List.finRange 32).tail)
    ∧ AcceptsWatchpoints (waiting .trappedBad []) ∧ AcceptsWatchpoints (waiting .halted [])
    ∧ (exprValue State.reset "1= =2".toList).2 = .syntaxError 1
    ∧ (exprValue State.reset "1/0".toList).2 = .fatal .exprDivZero
    ∧ (exprValue { State.reset with cfg := { Config.default with maxTokens := some 2 } } "1+1".toList).2 = .capacity
    ∧ (let s := { State.reset with cfg := { Config.default with maxExprLen := some 2 } }
       (exprValue s "$a0".toList).2 = .ok 0#32 ∧ exceeds "$a0".toList.length s.cfg.maxExprLen = true
        ∧ exceeds "$a".toList.length s.cfg.maxExprLen = false)
    ∧ ({ State.reset with freeList := [], activeList := List.finRange 32 } : State).freeList = [] := by
  unfold Given AcceptsWatchpoints; decide

/-- WatchpointDeleteOutcomes: the only active slot, and an id that is not active. -/
theorem witness_wp_delete :
    let s := { watching 0 "$a0" 7#32 with runState := .trappedOk, inputs := [.command (.wpDelete 3)] }
    (s.runState ≠ .running ∧ s.inputs = .command (.wpDelete 3) :: []) ∧ s.runState = .trappedOk
      ∧ (s.freeList ++ s.activeList).Perm (List.finRange numSlots) ∧ (∀ h ∈ s.activeList, (h.val : Int) ≠ 4)
      ∧ ∃ h ∈ s.activeList, (h.val : Int) = 3 := by decide

/-- ChangeDetectionScan, ScanFollowsEveryExecutedStep: a changed value, and an expression that is fatal now. -/
theorem witness_scan :
    (PoolPartition (watching 0 "$a0" 6#32)
      ∧ ∀ h ∈ (watching 0 "$a0" 6#32).activeList,
        (exprValue (watching 0 "$a0" 6#32) ((watching 0 "$a0" 6#32).slot h).expr).2 = .ok 7#32)
    ∧ (PoolPartition (watching 0 "1/$a1" 6#32) ∧ (watching 0 "1/$a1" 6#32).activeList = [] ++ 3 :: []
      ∧ (exprValue (watching 0 "1/$a1" 6#32) ((watching 0 "1/$a1" 6#32).slot 3).expr).2 = .fatal .exprDivZero) := by
  unfold PoolPartition; decide

/-- ProgramCannotObserveTheDebugUnit: two running states that differ in a watchpoint and a trap record. -/
theorem witness_two_states :
    SameProgramState (watching 0x00150513 "$a0" 7#32)
        { ready 0x00150513 0x80000000 0 7 0 with haltRet := 9#32, inputs := [.command .quit] }
    ∧ RunnableState (watching 0x00150513 "$a0" 7#32)
    ∧ RunnableState { ready 0x00150513 0x80000000 0 7 0 with haltRet := 9#32, inputs := [.command .quit] } := by
  unfold SameProgramState RunnableState; decide

/-- PcWatchpointStopsAfterEveryStep. -/
theorem witness_pc_watchpoint :
    let s := watching 0x00150513 "$pc" 0x80000000#32
    (s.runState = .running ∧ s.progress.left ≠ some 0) ∧ AfterExecOnce s (executed (.addi 10#5 10#5 1#12) s)
      ∧ (executed (.addi 10#5 10#5 1#12) s).runState = .running ∧ (executed (.addi 10#5 10#5 1#12) s).pc ≠ s.pc
      ∧ s.activeList = [3] ∧ s.slot 3 = { expr := "$pc".toList, last := s.pc }
      ∧ exceeds 1 s.cfg.maxTokens = false := by
  exact ⟨by decide, ⟨0x00150513#32, by decide, rfl⟩, by decide, by decide, by decide, by decide, by decide⟩

/-- TokenizerCoversTheText, RetagPassIsTheRule: a text that tokenizes, one that does not, a unary and a binary sign. -/
theorem witness_tokens :
    (tokenize " 2\t--3".toList
      = .ok [⟨.dec, ['2']⟩, ⟨.minus, ['-']⟩, ⟨.minus, ['-']⟩, ⟨.dec, ['3']⟩])
    ∧ tokenize "0x".toList = .error 1
    ∧ retag [⟨.dec, ['2']⟩, ⟨.minus, ['-']⟩, ⟨.minus, ['-']⟩, ⟨.dec, ['3']⟩]
      = [⟨.dec, ['2']⟩, ⟨.minus, ['-']⟩, ⟨.neg, ['-']⟩, ⟨.dec, ['3']⟩] := by decide

/-- OperatorsAssociateToTheLeft, TokenCountIsEnoughFuel, ExpressionExamples: operands that have values, an operator of
each class, and a state without a bound on tokens. -/
theorem witness_operands :
    singleToken State.reset ⟨.dec, "10".toList⟩ = .ok 10#32 ∧ singleToken State.reset ⟨.hex, "0xfF".toList⟩ = .ok 255#32
    ∧ singleToken State.reset ⟨.reg, "$pc".toList⟩ = .ok 0x80000000#32
    ∧ operatorClass (⟨.and, ['&', '&']⟩ : Token).type = some 0 ∧ operatorClass (⟨.neq, ['!', '=']⟩ : Token).type = some 1
    ∧ operatorClass (⟨.minus, ['-']⟩ : Token).type = some 2 ∧ operatorClass (⟨.slash, ['/']⟩ : Token).type = some 3
    ∧ State.reset.admitsAccess 8#32 .four = true ∧ State.reset.admitsAccess (State.reset.readReg 2#5) .four = true
    ∧ ({ State.reset with cfg := lowMemory } : State).admitsAccess 0x80000001#32 .four = false
    ∧ ([⟨.dec, ['1']⟩] : List Token).length ≤ 1 ∧ State.reset.cfg.maxTokens = none := by decide

/-- RegisterNamesResolve: the last name and number, and a name that is not found. -/
theorem witness_names :
    abiNames[31]? = some "t6" ∧ (31 : Nat) < 32 ∧ (∀ n ∈ abiNames, "a8".toList ≠ n.toList)
    ∧ (∀ i, i < 32 → "a8".toList ≠ 'x' :: (Nat.repr i).toList) ∧ "a8".toList ≠ "pc".toList
    ∧ "a8".toList ≠ "zero".toList ∧ "a8".toList ≠ "fp".toList := by decide

/-! ## Decisions of the model that no single step above shows -/

/-- R182, R191, R192: `wp_set`, then a step that changes the value, then the change list. -/
theorem test_change_stops_the_run :
    (match step (watching 0x00150513 "$a0" 7#32) with
      | .next t => some (t.runState, t.response, (t.slot 3).last)
      | _ => none) = some (.stopped, some (.runEnded 1 [{ handle := 3, old := 7#32 }]), 8#32) := by decide

/-- R161, R43: the right side is evaluated, with its read, after a fatal left side. -/
theorem test_right_side_after_a_fatal_left :
    exprValue State.reset "1/0+*8".toList = ([.read 8#32 .four], .fatal .exprDivZero) := by decide

/-- R26, R220: reset leaves the free list 0 to 31. -/
theorem test_reset_pool : State.reset.freeHead = some 0 ∧ State.reset.next 0 = some 1 ∧ State.reset.next 31 = none := by
  decide

/-- R59, R188, R222: a malformed template at start-up is FATAL, with its reason. -/
theorem test_bad_template :
    (let s := startUp Config.default [⟨"2".toList, .I, .addi⟩] [] Unspecified.zero []
     (s.runState, s.fatalReason)) = (.fatal, .badTemplate) := by decide

/-- R62: an earlier, less specific entry shadows a later one, so this word of `slti a0, a0, 0` adds. -/
theorem test_earlier_entry_shadows :
    regAfter 10#5 { ready 0x00052513 0x80000000 0 5 0 with cfg := { Config.default with patternTable := shadowing } }
      = some (5#32, 0x80000004#32) := by decide

/-- R63: a word no entry matches is an invalid instruction on a table without a catch-all too. -/
theorem test_closed_table :
    trapAfter { ready 0x00000033 0x80000000 0 5 0 with cfg := { Config.default with patternTable := shadowing } }
      = some (.trappedBad, 0x80000000#32, 0x80000004#32) := by decide

/-- R74: the tuple is the one the entry's tag decodes, so `lui` under type I writes a sign-extended 12-bit immediate. -/
theorem test_action_under_another_tag :
    regAfter 10#5 { ready 0xfff00513 0x80000000 0 5 0 with
      cfg := { Config.default with patternTable := [⟨0x7f#32, 0x13#32, .I, .lui⟩] } }
      = some (0xffffffff#32, 0x80000004#32) := by decide

end Sys2Proof.Tests
end

section
/-! SUPPORT. Register names (10_state.md R11): where the scan of a name list stops, what the register names without
their `$` stand for, and the obligation on them. -/

namespace Sys2Proof.Machine

/-! ## The scan of a name list -/

theorem indexOfName_eq_none_iff {text : Text} {names : List Text} {start : Nat} :
    indexOfName text names start = none ↔ text ∉ names := by
  induction names generalizing start with
  | nil => simp [indexOfName]
  | cons name rest ih =>
    by_cases hname : name = text
    · simp [indexOfName, hname]
    · simp [indexOfName, hname, Ne.symm hname, ih]

/-- In a list without repetitions the first occurrence of a name is its only one, so the scan gives its position. -/
theorem indexOfName_of_getElem? {text : Text} {names : List Text} {start i : Nat} (hnodup : names.Nodup)
    (hi : names[i]? = some text) : indexOfName text names start = some (start + i) := by
  induction names generalizing start i with
  | nil => simp at hi
  | cons name rest ih =>
    obtain ⟨hhead, hrest⟩ := List.nodup_cons.mp hnodup
    cases i with
    | zero =>
      have hname : name = text := by simpa using hi
      simp [indexOfName, hname]
    | succ j =>
      have hj : rest[j]? = some text := by simpa using hi
      have hne : name ≠ text := fun h => hhead (h ▸ List.mem_of_getElem? hj)
      rw [indexOfName, if_neg hne, ih hrest hj, Nat.add_right_comm, Nat.add_assoc]

/-! ## The name tables of R11 -/

/-- The names of registers 0 to 31, as texts. -/
def abiTexts : List Text := abiNames.map String.toList

/-- The aliases `x0 .. x31`, as texts. -/
def xTexts : List Text := (List.range 32).map xName

/-- The three names that `resolveName` knows before it scans a table. -/
def fixedTexts : List Text := ["pc".toList, "zero".toList, "fp".toList]

theorem not_mem_fixedTexts_iff {name : Text} :
    name ∉ fixedTexts ↔ name ≠ "pc".toList ∧ name ≠ "zero".toList ∧ name ≠ "fp".toList := by
  simp [fixedTexts]

theorem abiTexts_nodup : abiTexts.Nodup := by decide

theorem xTexts_nodup : xTexts.Nodup := by decide

theorem not_mem_fixedTexts_of_mem_abiTexts : ∀ name ∈ abiTexts, name ∉ fixedTexts := by decide

theorem not_mem_fixedTexts_of_mem_xTexts : ∀ name ∈ xTexts, name ∉ fixedTexts := by decide

theorem not_mem_abiTexts_of_mem_xTexts : ∀ name ∈ xTexts, name ∉ abiTexts := by decide

/-- The model spells the numbered aliases in decimal. -/
theorem xName_eq_repr : ∀ i, i < 32 → xName i = 'x' :: (Nat.repr i).toList := by decide

theorem xTexts_getElem? {i : Nat} (hi : i < 32) : xTexts[i]? = some ('x' :: (Nat.repr i).toList) := by
  simp [xTexts, hi, xName_eq_repr i hi]

/-! ## What a name stands for -/

/-- Past the three fixed names, a name is sought among the ABI names, then among the numbered aliases. -/
theorem resolveName_of_not_mem_fixedTexts {name : Text} (h : name ∉ fixedTexts) :
    resolveName name = ((indexOfName name abiTexts 0).or (indexOfName name xTexts 0)).map
      fun n => .gpr (BitVec.ofNat 5 n) := by
  obtain ⟨hpc, hzero, hfp⟩ := not_mem_fixedTexts_iff.mp h
  rw [resolveName, if_neg hpc, if_neg hzero, if_neg hfp, ← abiTexts, ← xTexts]
  cases indexOfName name abiTexts 0 with
  | some n => rfl
  | none => cases indexOfName name xTexts 0 <;> rfl

theorem resolveName_abi {name : Text} {i : Nat} (hi : abiTexts[i]? = some name) :
    resolveName name = some (.gpr (BitVec.ofNat 5 i)) := by
  have hmem : name ∈ abiTexts := List.mem_of_getElem? hi
  simp [resolveName_of_not_mem_fixedTexts (not_mem_fixedTexts_of_mem_abiTexts name hmem),
    indexOfName_of_getElem? abiTexts_nodup hi]

theorem resolveName_x {name : Text} {i : Nat} (hi : xTexts[i]? = some name) :
    resolveName name = some (.gpr (BitVec.ofNat 5 i)) := by
  have hmem : name ∈ xTexts := List.mem_of_getElem? hi
  have habi : indexOfName name abiTexts 0 = none :=
    indexOfName_eq_none_iff.mpr (not_mem_abiTexts_of_mem_xTexts name hmem)
  simp [resolveName_of_not_mem_fixedTexts (not_mem_fixedTexts_of_mem_xTexts name hmem), habi,
    indexOfName_of_getElem? xTexts_nodup hi]

theorem resolveName_eq_none {name : Text} (hfixed : name ∉ fixedTexts) (habi : name ∉ abiTexts)
    (hx : name ∉ xTexts) : resolveName name = none := by
  simp [resolveName_of_not_mem_fixedTexts hfixed, indexOfName_eq_none_iff.mpr habi, indexOfName_eq_none_iff.mpr hx]

/-! ## References, with their `$` -/

theorem resolve_of_gpr (s : State) {name : Text} {i : RegIdx} (h : resolveName name = some (.gpr i)) :
    resolve s ('$' :: name) = some (s.readReg i) := by
  simp [resolve, h]

theorem resolve_of_none (s : State) {name : Text} (h : resolveName name = none) : resolve s ('$' :: name) = none := by
  simp [resolve, h]

/-- Settles O58: a name of a table is resolved at its position, since no name stands in two tables or twice in one, and
a name in no table falls through all of them. -/
theorem registerNamesResolve : Obligations.RegisterNamesResolve := by
  refine ⟨fun s => ⟨rfl, rfl, rfl⟩, fun s i name hi => ?_, fun s i hi => ?_, rfl, ?_⟩
  · exact resolve_of_gpr s (resolveName_abi (by simp [abiTexts, hi]))
  · exact resolve_of_gpr s (resolveName_x (xTexts_getElem? hi))
  · intro s name habi hx hpc hzero hfp
    have hmemFixed : name ∉ fixedTexts := not_mem_fixedTexts_iff.mpr ⟨hpc, hzero, hfp⟩
    have hmemAbi : name ∉ abiTexts := by
      rw [abiTexts, List.mem_map]
      rintro ⟨n, hn, rfl⟩
      exact habi n hn rfl
    have hmemX : name ∉ xTexts := by
      rw [xTexts, List.mem_map]
      rintro ⟨i, hi, rfl⟩
      exact hx i (List.mem_range.mp hi) (xName_eq_repr i (List.mem_range.mp hi))
    exact resolve_of_none s (resolveName_eq_none hmemFixed hmemAbi hmemX)

end Sys2Proof.Machine
end

section
/-! SUPPORT. The first-match scan and the words it leaves to the catch-all (30_encoding.md R62, R67), with the obligations
on them. -/

namespace Sys2Proof.Machine

/-! ## The scan in declared order -/

/-- The scan is the library's search for the first element that passes a test, here the match test of R62. -/
theorem firstMatch_eq_find? (table : List Entry) (w : Word) :
    firstMatch table w = table.find? fun e => e.matches w := by
  induction table with
  | nil => rfl
  | cons e rest ih => cases h : e.matches w <;> simp [firstMatch, h, ih]

theorem entryMatches_eq_false_iff (e : Entry) (w : Word) : e.matches w = false ↔ w &&& e.mask ≠ e.value := by
  rw [← Bool.not_eq_true, Entry.matches_iff]

/-- Settles O5: the scan is the library's `find?`, whose answer is the element that passes the test after a prefix of
elements that fail it. -/
theorem firstMatchFollowsDeclaredOrder : Obligations.FirstMatchFollowsDeclaredOrder := by
  intro table w e
  rw [firstMatch_eq_find?, List.find?_eq_some_iff_append]
  simp only [Bool.not_eq_true', entryMatches_eq_false_iff, Entry.matches_iff]
  constructor
  · rintro ⟨hm, before, after, htable, hbefore⟩
    exact ⟨before, after, htable, hm, hbefore⟩
  · rintro ⟨before, after, htable, hm, hbefore⟩
    exact ⟨hm, before, after, htable, hbefore⟩

/-! ## The major opcodes of the table -/

/-- Every entry of 1 to 46 fixes the whole major opcode, so a word that matches has the entry's opcode. -/
theorem opcode_of_match {e : Entry} (he : e ∈ realEntries) {w : Word} (hm : w &&& e.mask = e.value) :
    w.extractLsb' 0 7 = e.value.extractLsb' 0 7 := by
  have hmask : ∀ d ∈ realEntries, d.mask.extractLsb' 0 7 = BitVec.allOnes 7 := by decide
  exact extract_of_mask w e.mask e.value 0 7 hm (hmask e he)

/-- Every major opcode of the table ends in `11`. -/
theorem lowBits_of_match {e : Entry} (he : e ∈ realEntries) {w : Word} (hm : w &&& e.mask = e.value) :
    w.extractLsb' 0 2 = 0b11#2 := by
  have hmask : ∀ d ∈ realEntries, d.mask.extractLsb' 0 2 = BitVec.allOnes 2 := by decide
  have hvalue : ∀ d ∈ realEntries, d.value.extractLsb' 0 2 = 0b11#2 := by decide
  rw [extract_of_mask w e.mask e.value 0 2 hm (hmask e he), hvalue e he]

/-- The only entry of major opcode `1110011` is `ebreak`, and it fixes every bit. -/
theorem eq_ebreak_of_match {e : Entry} (he : e ∈ realEntries) {w : Word} (hm : w &&& e.mask = e.value)
    (hop : w.extractLsb' 0 7 = 0b1110011#7) : w = 0x00100073#32 := by
  have honly : ∀ d ∈ realEntries, d.value.extractLsb' 0 7 = 0b1110011#7 → d = ebreakRow.entry := by decide
  obtain rfl := honly e he ((opcode_of_match he hm).symm.trans hop)
  calc w = w &&& BitVec.allOnes 32 := BitVec.and_allOnes.symm
    _ = 0x00100073#32 := hm

/-- No entry has the major opcode `0001111` of the fences (R41). -/
theorem opcode_ne_fence_of_match {e : Entry} (he : e ∈ realEntries) {w : Word} (hm : w &&& e.mask = e.value) :
    w.extractLsb' 0 7 ≠ 0b0001111#7 := by
  have hvalue : ∀ d ∈ realEntries, d.value.extractLsb' 0 7 ≠ 0b0001111#7 := by decide
  rw [opcode_of_match he hm]
  exact hvalue e he

/-! ## The invalid instruction -/

/-- An instruction that raises `InvalidInstruction` and does nothing else ends in TRAPPED_BAD with the trap frame. -/
theorem completesTrapping_of_raisesInvalid {i : Instr} {s : State}
    (h : exec i s = .next (takeRaise s .invalidInstruction)) :
    CompletesTrapping i s .trappedBad (takeRaise s .invalidInstruction) :=
  ⟨h, rfl, rfl, rfl, rfl, fun _ => rfl, fun _ => rfl, rfl, rfl, by constructor <;> rfl⟩

/-- R141, R143: `inv` traps, whatever its word. -/
theorem inv_completesTrapping (word : Word) (s : State) : ∃ t, CompletesTrapping (.inv word) s .trappedBad t :=
  ⟨_, completesTrapping_of_raisesInvalid rfl⟩

/-- Settles O4: a matching entry of 1 to 46 would give the word a major opcode of the table, which each of the three
classes excludes; so the word reaches the catch-all, and `inv` traps. -/
theorem unknownOpcodeClassesAreInvalid : Obligations.UnknownOpcodeClassesAreInvalid := by
  intro w hclass
  have hnone : ∀ e ∈ realEntries, w &&& e.mask ≠ e.value := by
    intro e he hm
    rcases hclass with hlow | ⟨hop, hne⟩ | hfence
    · exact hlow (lowBits_of_match he hm)
    · exact hne (eq_ebreak_of_match he hm hop)
    · exact opcode_ne_fence_of_match he hm hfence
  rw [decodeWord_of_none hnone]
  exact ⟨rfl, inv_completesTrapping w⟩

end Sys2Proof.Machine
end

section
/-! SUPPORT. The operand tuple of each type tag (30_encoding.md R49 to R55): the immediates bit by bit, and the
obligation on them. -/

namespace Sys2Proof.Machine

/-- Sign extension to a word repeats the field's last bit. -/
theorem getLsbD_signExtend_word {n : Nat} (field : BitVec n) {k : Nat} (hk : k < 32) :
    (field.signExtend 32).getLsbD k = field.getLsbD (if k < n then k else n - 1) := by
  rw [BitVec.getLsbD_signExtend, decide_eq_true hk, Bool.true_and, BitVec.msb_eq_getLsbD_last]
  split <;> rfl

theorem getLsbD_immIField (w : Word) (k : Nat) :
    (immIField w).getLsbD k = if k < 12 then w.getLsbD (20 + k) else false := by
  rw [immIField, BitVec.getLsbD_extractLsb']
  split <;> simp [*]

theorem getLsbD_immI (w : Word) {k : Nat} (hk : k < 32) :
    ((immIField w).signExtend 32).getLsbD k = w.getLsbD (if k < 12 then 20 + k else 31) := by
  rw [getLsbD_signExtend_word _ hk, getLsbD_immIField]
  split <;> simp [*]

theorem getLsbD_immS (w : Word) {k : Nat} (hk : k < 32) :
    ((immSField w).signExtend 32).getLsbD k
      = w.getLsbD (if k < 5 then 7 + k else if k < 12 then 20 + k else 31) := by
  rw [getLsbD_signExtend_word _ hk]
  by_cases hfield : k < 12
  · rw [if_pos hfield, getLsbD_immSField]
    grind
  · rw [if_neg hfield, getLsbD_immSField]
    grind

theorem getLsbD_immB (w : Word) {k : Nat} (hk : k < 32) :
    ((immBField w).signExtend 32).getLsbD k
      = if k = 0 then false
        else w.getLsbD (if k < 5 then 7 + k else if k < 11 then 20 + k else if k = 11 then 7 else 31) := by
  rw [getLsbD_signExtend_word _ hk]
  by_cases hfield : k < 13
  · rw [if_pos hfield, getLsbD_immBField]
    grind
  · rw [if_neg hfield, getLsbD_immBField]
    grind

theorem getLsbD_immJ (w : Word) {k : Nat} (hk : k < 32) :
    ((immJField w).signExtend 32).getLsbD k
      = if k = 0 then false
        else w.getLsbD (if k < 11 then 20 + k else if k = 11 then 20 else if k < 20 then k else 31) := by
  rw [getLsbD_signExtend_word _ hk]
  by_cases hfield : k < 21
  · rw [if_pos hfield, getLsbD_immJField]
    grind
  · rw [if_neg hfield, getLsbD_immJField]
    grind

theorem getLsbD_immU (w : Word) {k : Nat} (hk : k < 32) :
    (immUField w ++ 0#12 : Word).getLsbD k = if k < 12 then false else w.getLsbD k := by
  rw [BitVec.getLsbD_append, immUField, BitVec.getLsbD_extractLsb']
  split
  · simp
  · rw [decide_eq_true (by omega), Bool.true_and, Nat.add_sub_cancel' (by omega)]

/-- Settles O10: the tuple of each tag is its definition's fields, with the immediate's bits given by the lemmas above;
the examples are the tuples of closed words. -/
theorem operandTupleOfEachTypeTag : Obligations.OperandTupleOfEachTypeTag := by
  intro w s
  refine ⟨⟨rfl, rfl, rfl, fun k hk => getLsbD_immI w hk⟩, ⟨rfl, rfl, rfl, fun k hk => getLsbD_immU w hk⟩,
    ⟨rfl, rfl, rfl, fun k hk => getLsbD_immS w hk⟩, ⟨rfl, rfl, rfl, fun k hk => getLsbD_immJ w hk⟩,
    ⟨rfl, rfl, rfl, rfl⟩, ⟨rfl, rfl, rfl, fun k hk => getLsbD_immB w hk⟩, rfl, rfl, rfl, rfl, rfl, rfl, rfl⟩

end Sys2Proof.Machine
end

section
/-! SUPPORT. The conversion of a template (30_encoding.md R59, R60): the bits each character fixes, the word they make,
and the obligation on them. -/

namespace Sys2Proof.Machine

/-! ## The bits of a character -/

/-- Whether a character fixes its bit: `mask[i]` of R60. -/
def charMaskBit (c : Char) : Bool := c == '0' || c == '1'

/-- The value a character fixes its bit to: `value[i]` of R60. -/
def charValueBit (c : Char) : Bool := c == '1'

theorem templateBit_eq_some_iff {c : Char} {b : Bool × Bool} :
    templateBit c = some b ↔ (c = '0' ∨ c = '1' ∨ c = '?') ∧ b = (charMaskBit c, charValueBit c) := by
  unfold templateBit
  split
  case h_4 h0 h1 hw =>
    constructor
    · exact nofun
    · rintro ⟨rfl | rfl | rfl, -⟩
      · exact absurd rfl h0
      · exact absurd rfl h1
      · exact absurd rfl hw
  all_goals simp [charMaskBit, charValueBit, eq_comm]

theorem convertBits_cons_eq_some_iff {c : Char} {rest : Text} {bits : List (Bool × Bool)} :
    convertBits (c :: rest) = some bits ↔
      ∃ b bs, templateBit c = some b ∧ convertBits rest = some bs ∧ bits = b :: bs := by
  rw [convertBits]
  cases templateBit c <;> cases convertBits rest <;> simp [eq_comm]

/-- Characters convert exactly where each has a meaning, and then one by one. -/
theorem convertBits_eq_some_iff {chars : Text} {bits : List (Bool × Bool)} :
    convertBits chars = some bits ↔
      (∀ c ∈ chars, c = '0' ∨ c = '1' ∨ c = '?') ∧ bits = chars.map fun c => (charMaskBit c, charValueBit c) := by
  induction chars generalizing bits with
  | nil => simp [convertBits, eq_comm]
  | cons c rest ih =>
    simp only [convertBits_cons_eq_some_iff, templateBit_eq_some_iff, ih, List.forall_mem_cons, List.map_cons]
    constructor
    · rintro ⟨_, _, ⟨hc, rfl⟩, ⟨hrest, rfl⟩, rfl⟩
      exact ⟨⟨hc, hrest⟩, rfl⟩
    · rintro ⟨⟨hc, hrest⟩, rfl⟩
      exact ⟨_, _, ⟨hc, rfl⟩, ⟨hrest, rfl⟩, rfl⟩

/-! ## The word of a list of bits -/

theorem wordOfBits_concat (bits : List Bool) (b : Bool) :
    wordOfBits (bits ++ [b]) = wordOfBits bits <<< 1 ||| (BitVec.ofBool b).setWidth 32 := by
  simp [wordOfBits]

/-- The last bit of the list is bit 0 of the word. -/
theorem getLsbD_wordOfBits (bits : List Bool) {i : Nat} (hi : i < 32) :
    (wordOfBits bits).getLsbD i = bits.reverse[i]?.getD false := by
  induction bits using List.reverseRecOn generalizing i with
  | nil => simp [wordOfBits]
  | append_singleton bits b ih =>
    rw [wordOfBits_concat, List.reverse_concat]
    cases i with
    | zero => simp
    | succ j =>
      have hj : j < 32 := by omega
      simpa [hi, hj, Nat.succ_lt_succ_iff] using ih hj

/-- A word is the word of 32 characters' bits exactly where bit `i` is the bit of the character at position `31 - i`. -/
theorem eq_wordOfBits_iff (bit : Char → Bool) {chars : Text} (hlen : chars.length = 32) (w : Word) :
    w = wordOfBits (chars.map bit) ↔ ∀ i (hi : i < 32), w.getLsbD i = bit (chars[31 - i]) := by
  have hword : ∀ i (hi : i < 32), (wordOfBits (chars.map bit)).getLsbD i = bit (chars[31 - i]) := by
    intro i hi
    have hrev : (chars.map bit).reverse[i]? = some (bit chars[31 - i]) := by
      have hpos : 31 - i < chars.length := by omega
      rw [List.getElem?_reverse (by simpa [hlen] using hi)]
      simp [hlen, List.getElem?_eq_getElem hpos]
    simp [getLsbD_wordOfBits _ hi, hrev]
  constructor
  · rintro rfl
    exact hword
  · intro h
    exact BitVec.eq_of_getLsbD_eq fun i hi => (h i hi).trans (hword i hi).symm

/-! ## The conversion -/

/-- R59, R60: which texts convert, and to what. -/
theorem convertTemplate_eq_ok_iff {text : Text} {p : Pattern} :
    convertTemplate text = .ok p ↔
      (∀ c ∈ text.filter (· != ' '), c = '0' ∨ c = '1' ∨ c = '?') ∧ (text.filter (· != ' ')).length = 32
        ∧ p.mask = wordOfBits ((text.filter (· != ' ')).map charMaskBit)
        ∧ p.value = wordOfBits ((text.filter (· != ' ')).map charValueBit) := by
  have hok : convertTemplate text = .ok p ↔ ∃ bits, convertBits (text.filter (· != ' ')) = some bits
      ∧ bits.length = 32 ∧ p.mask = wordOfBits (bits.map (·.1)) ∧ p.value = wordOfBits (bits.map (·.2)) := by
    obtain ⟨mask, value⟩ := p
    rw [convertTemplate]
    cases convertBits (text.filter (· != ' ')) with
    | none => simp
    | some bits => by_cases hlen : bits.length = 32 <;> simp [hlen, eq_comm]
  simp only [hok, convertBits_eq_some_iff]
  constructor
  · rintro ⟨_, ⟨hchars, rfl⟩, hlen, hmask, hvalue⟩
    exact ⟨hchars, by simpa using hlen, by simpa [Function.comp_def] using hmask,
      by simpa [Function.comp_def] using hvalue⟩
  · rintro ⟨hchars, hlen, hmask, hvalue⟩
    exact ⟨_, ⟨hchars, rfl⟩, by simpa using hlen, by simpa [Function.comp_def] using hmask,
      by simpa [Function.comp_def] using hvalue⟩

theorem eq_badTemplate_of_convertTemplate_eq_error {text : Text} {r : FatalReason}
    (h : convertTemplate text = .error r) : r = .badTemplate := by
  rw [convertTemplate] at h
  split at h
  · split at h <;> cases h
    rfl
  · cases h
    rfl

/-- Settles O7: a text converts exactly where its 32 characters have a meaning each, and the two words have at bit `i`
what the character at position `31 - i` fixes. -/
theorem templateConversionIsBitByBit : Obligations.TemplateConversionIsBitByBit := by
  refine ⟨fun text p => ?_, fun _ _ => eq_badTemplate_of_convertTemplate_eq_error, by decide, by decide, by decide⟩
  rw [convertTemplate_eq_ok_iff]
  constructor
  · rintro ⟨hchars, hlen, hmask, hvalue⟩
    rw [eq_wordOfBits_iff _ hlen] at hmask hvalue
    exact ⟨hlen, hchars, fun i hi => ⟨_, List.getElem?_eq_getElem (by omega), hmask i hi, hvalue i hi⟩⟩
  · rintro ⟨hlen, hchars, hbits⟩
    refine ⟨hchars, hlen, (eq_wordOfBits_iff _ hlen _).mpr fun i hi => ?_,
      (eq_wordOfBits_iff _ hlen _).mpr fun i hi => ?_⟩ <;>
    · obtain ⟨c, hc, hmask, hvalue⟩ := hbits i hi
      obtain ⟨_, rfl⟩ := List.getElem?_eq_some_iff.mp hc
      assumption

end Sys2Proof.Machine
end

section
/-! SUPPORT. What a table selects from a word (40_dispatch_step.md R73, R81): the index of the entry, why it is unique
among entries 1 to 46, and where the halt entries stand; with the obligations on them. -/

namespace Sys2Proof.Machine

/-! ## The index of the selected entry -/

/-- The entry the scan answers matches, and stands at an index before which nothing matches. -/
theorem exists_index_of_firstMatch {table : List Entry} {w : Word} {e : Entry} (h : firstMatch table w = some e) :
    ∃ k, table[k]? = some e ∧ w &&& e.mask = e.value
      ∧ ∀ (j : Nat) (d : Entry), j < k → table[j]? = some d → w &&& d.mask ≠ d.value := by
  obtain ⟨before, after, rfl, hm, hbefore⟩ := (firstMatchFollowsDeclaredOrder table w e).mp h
  refine ⟨before.length, by simp, hm, fun j d hj hd => hbefore d ?_⟩
  rw [List.getElem?_append_left hj] at hd
  exact List.mem_of_getElem? hd

/-- Of entries 1 to 46, an entry after one that matches does not match, since the two conflict (R61). -/
theorem not_match_after_match {k j : Nat} (hkj : k < j) {e d : Entry} (hk : realEntries[k]? = some e)
    (hj : realEntries[j]? = some d) {w : Word} (hm : w &&& e.mask = e.value) : w &&& d.mask ≠ d.value := by
  obtain ⟨hk', rfl⟩ := List.getElem?_eq_some_iff.mp hk
  obtain ⟨hj', rfl⟩ := List.getElem?_eq_some_iff.mp hj
  have hconflict := List.pairwise_iff_getElem.mp realEntries_pairwise k j hk' hj' hkj
  rw [← entryMatches_eq_false_iff]
  exact Entry.not_matches_of_conflicts hconflict ((Entry.matches_iff _ w).mpr hm)

theorem realEntries_length : realEntries.length = 46 := by decide

theorem defaultTable_getElem?_of_lt {j : Nat} (hj : j < 46) : defaultTable[j]? = realEntries[j]? :=
  List.getElem?_append_left (realEntries_length ▸ hj)

theorem table_of_config_default : Config.default.table = defaultTable := table_of_default rfl

/-- Settles O6: the scan answers with the first match on every table; on the default one an entry of 1 to 46 that matches
cannot stand earlier, since the answer is the first match, nor later, since it would conflict with the answer. -/
theorem selectedEntryIsUnique : Obligations.SelectedEntryIsUnique := by
  have hfirst : ∀ (cfg : Config) (w : Word), ∃ (k : Nat) (e : Entry), cfg.table[k]? = some e
      ∧ firstMatch cfg.table w = some e ∧ w &&& e.mask = e.value
      ∧ ∀ (j : Nat) (d : Entry), j < k → cfg.table[j]? = some d → w &&& d.mask ≠ d.value := by
    intro cfg w
    obtain ⟨e, he⟩ := firstMatch_table cfg w
    obtain ⟨k, hk, hm, hbefore⟩ := exists_index_of_firstMatch he
    exact ⟨k, e, hk, he, hm, hbefore⟩
  refine ⟨hfirst, by decide, fun w => ?_⟩
  obtain ⟨k, e, hk, he, hm, hbefore⟩ := table_of_config_default ▸ hfirst Config.default w
  refine ⟨k, e, hk, he, hm, hbefore, fun j d hj hd hmd => ?_⟩
  rcases Nat.lt_trichotomy j k with hlt | heq | hgt
  · exact absurd hmd (hbefore j d hlt hd)
  · exact heq
  · rw [defaultTable_getElem?_of_lt hj] at hd
    rw [defaultTable_getElem?_of_lt (hgt.trans hj)] at hk
    exact absurd hmd (not_match_after_match hgt hk hd hm)

/-! ## What the default table selects with halt entries -/

/-- Every action but the halt is an instruction of the opcode table. -/
theorem exists_instr_of_ne_halt {a : Action} (h : a ≠ .halt) (w : Word) : ∃ i, a.instr w = some i := by
  cases a
  case halt => exact absurd rfl h
  all_goals exact ⟨_, rfl⟩

/-- Every entry of 1 to 46 has its action's own tag, so it selects an instruction. -/
theorem exists_select_of_mem_realEntries {e : Entry} (he : e ∈ realEntries) (w : Word) :
    ∃ i, e.select w = .instr i := by
  have htable : ∀ d ∈ realEntries, d.action ≠ .halt ∧ d.tag = d.action.tag := by decide
  obtain ⟨haction, htag⟩ := htable e he
  obtain ⟨i, hi⟩ := exists_instr_of_ne_halt haction w
  exact ⟨i, by simp [Entry.select, hi, htag]⟩

/-- A word that matches one of entries 1 to 46 runs that entry, whatever follows them. -/
theorem dispatchWord_eq_decodeWord_of_mem (ys : List Entry) {w : Word} {e : Entry} (he : e ∈ realEntries)
    (hm : w &&& e.mask = e.value) : dispatchWord (realEntries ++ ys) w = .instr (decodeWord w) := by
  obtain ⟨i, hi⟩ := exists_select_of_mem_realEntries he w
  obtain ⟨k, hk⟩ := List.mem_iff_getElem?.mp he
  rw [dispatchWord_of_mem ys he hm, hi, decodeWord_of_row k hk hm hi]

/-! ## The halting step -/

/-- A round whose fetch gives `w` runs what the table selects from `w`, and is closed on the state the action left. -/
theorem step_of_fetchWord {s u : State} {w : Word} (hs : RunnableState s) (hw : s.fetchWord = some w)
    (hu : runSelected (dispatchWord s.cfg.table w) (fetched s.clearOutputs) = .next u) :
    step s = .next (afterInstruction u) := by
  obtain ⟨hr, hl⟩ := hs
  rcases step_running hr hl with ⟨hfault, -⟩ | ⟨t, hread, ht, -, hstep⟩
  · simp [State.fetchWord, State.memRead, hfault] at hw
  · obtain rfl : w = Memory.read s.mem s.pc .four := Option.some.inj (hw.symm.trans hread)
    cases ht.symm.trans hu
    exact hstep

/-- Settles O12: the halt entries stand before the catch-all by the form of the default table, so they are reached by the
words that entries 1 to 46 leave; the halting step takes the halt raise in the state after the fetch. -/
theorem haltPatternsStandBeforeTheCatchAll : Obligations.HaltPatternsStandBeforeTheCatchAll := by
  refine ⟨fun cfg hcfg => ⟨?_, fun w ⟨e, he, hm⟩ => ?_, fun w hnone => ?_⟩, fun s w hcfg hs hw hnone hhalt => ?_⟩
  · rw [table_of_default hcfg, ← List.append_assoc]
    rfl
  · rw [table_of_default hcfg, dispatchWord_eq_decodeWord_of_mem _ he hm]
  · rw [table_of_default hcfg, dispatchWord_of_none _ hnone]
  · have hsel : dispatchWord s.cfg.table w = .action .halt .N w := by
      rw [table_of_default hcfg, dispatchWord_of_none _ hnone, if_pos hhalt]
    refine ⟨takeRaise (fetched s.clearOutputs) (.halt (s.readReg trapRetReg)), step_of_fetchWord hs hw ?_,
      rfl, rfl, rfl, rfl, fun _ => rfl, fun _ => rfl⟩
    rw [hsel]
    rfl

end Sys2Proof.Machine
end

section
/-! SUPPORT. The integer-immediate instructions (spec/41_integer_immediate.md): the row of an action in the default
table, how an instruction completes that writes a register or rejects a shift, the values in exact arithmetic, and the
obligations on them. -/

namespace Sys2Proof.Machine

/-! ## A row of the default table -/

/-- Row `k + 1` of R61 stands in both forms of the default table, and its action's instruction is what a word that
matches it decodes to. -/
theorem tableRow_of_action (k : Nat) (action : Action) {template : String} {mask value : Word} {f : Word → Instr}
    (hrow : realRows[k]? = some ⟨template, mask, value, action.tag, action⟩)
    (hf : ∀ w, action.instr w = some (f w)) : TableRow (k + 1) action.tag template mask value f := by
  have hlen : k < realRows.length := (List.getElem?_eq_some_iff.mp hrow).1
  have hdeclared : defaultDeclarations[k]? = some ⟨template.toList, action.tag, action⟩ := by
    rw [defaultDeclarations, List.getElem?_map, List.getElem?_append_left hlen, hrow]
    rfl
  have hentry : realEntries[k]? = some ⟨mask, value, action.tag, action⟩ := by
    rw [realEntries, List.getElem?_map, hrow]
    rfl
  refine ⟨⟨action, hdeclared, ?_⟩, fun w hm => decodeWord_of_row k hentry hm ?_⟩
  · rw [Nat.add_sub_cancel, defaultTable, List.getElem?_append_left (List.getElem?_eq_some_iff.mp hentry).1, hentry]
  · simp [Entry.select, hf]

/-! ## How an instruction completes -/

/-- R76, R77: writing a register and moving `pc` leaves everything else as it was. -/
theorem completesWriting_of_exec_eq {i : Instr} {s : State} {rd : RegIdx} {v pc' : Word}
    (h : exec i s = .next ((s.writeReg rd v).setPc pc')) : CompletesWriting i s rd v pc' [] := by
  refine ⟨_, h, by simp, fun r hr => ?_, rfl, by simp, fun a => by simp, ?_⟩
  · rw [State.setPc_readReg, State.readReg_writeReg_other s v hr]
  · constructor
    case pool => constructor <;> simp
    all_goals simp

/-- R97: an action that computes a register advances `pc` by 4. -/
theorem completesWriting_of_writeAndAdvance {i : Instr} {s : State} {rd : RegIdx} {v : Word}
    (h : exec i s = writeAndAdvance rd v s) : CompletesWriting i s rd v (s.pc + 4#32) [] :=
  completesWriting_of_exec_eq h

theorem completesMoving_of_exec_eq {i : Instr} {s : State} {pc' : Word} (h : exec i s = .next (s.setPc pc')) :
    CompletesMoving i s pc' :=
  ⟨_, h, fun _ => rfl, rfl, rfl, fun _ => rfl, by
    constructor
    case pool => constructor <;> rfl
    all_goals rfl⟩

/-- R96: under `invalid` the rejection is the trap of `inv`, under `nop` it only moves `pc`. -/
theorem completesRejected_of_rejectShift {i : Instr} {s : State} (h : exec i s = rejectShift s) :
    CompletesRejected i s := by
  rcases rejectShift_cases s with ⟨hinvalid, hr⟩ | ⟨hnop, hr⟩
  · exact ⟨fun _ => ⟨_, completesTrapping_of_raisesInvalid (h.trans hr)⟩,
      fun hnop => nomatch hinvalid.symm.trans hnop⟩
  · exact ⟨fun hinvalid => (nomatch hinvalid.symm.trans hnop),
      fun _ => completesMoving_of_exec_eq (h.trans hr)⟩

/-! ## The immediates in exact arithmetic -/

/-- R50: a field placed at bit 12 counts 4096 times. -/
theorem immU_eq_ofNat (imm20 : BitVec 20) : (imm20 ++ 0#12 : Word) = BitVec.ofNat 32 (4096 * imm20.toNat) := by
  apply BitVec.eq_of_toNat_eq
  have hlt : imm20.toNat < 2 ^ 20 := imm20.isLt
  have happend : (imm20 ++ 0#12 : BitVec (20 + 12)).toNat = imm20.toNat * 2 ^ 12 := by
    rw [BitVec.toNat_append, BitVec.toNat_ofNat, Nat.zero_mod, Nat.or_zero, Nat.shiftLeft_eq]
  rw [happend, BitVec.toNat_ofNat]
  omega

theorem add_immU_eq_ofNat (pc : Word) (imm20 : BitVec 20) :
    pc + (imm20 ++ 0#12 : Word) = BitVec.ofNat 32 (pc.toNat + 4096 * imm20.toNat) := by
  rw [immU_eq_ofNat, BitVec.ofNat_add, BitVec.ofNat_toNat, BitVec.setWidth_eq]

theorem toInt_immI (imm : BitVec 12) : (imm.signExtend 32).toInt = imm.toInt :=
  BitVec.toInt_signExtend_of_le (by decide)

/-- R87: a sign-extended immediate read as unsigned. -/
theorem toNat_immI (imm : BitVec 12) : ((imm.signExtend 32).toNat : Int) = imm.toInt % 2 ^ 32 := by
  rw [BitVec.signExtend, BitVec.toNat_ofInt]
  exact Int.toNat_of_nonneg (Int.emod_nonneg _ (by decide))

theorem add_immI_eq_ofInt (a : Word) (imm : BitVec 12) :
    a + imm.signExtend 32 = BitVec.ofInt 32 (a.toInt + imm.toInt) := by
  rw [BitVec.ofInt_add, BitVec.ofInt_toInt, BitVec.signExtend]

/-- R49: bit 11 of the field is copied above. -/
theorem getLsbD_signExtend_imm12 (imm : BitVec 12) {k : Nat} (hk : k < 32) :
    (imm.signExtend 32).getLsbD k = imm.getLsbD (min k 11) := by
  rw [getLsbD_signExtend_word imm hk]
  congr 1
  split <;> omega

/-! ## Comparisons (R97) -/

theorem boolWord_eq_oneIf {b : Bool} {p : Prop} [Decidable p] (h : b = true ↔ p) : boolWord b = oneIf p := by
  simp only [boolWord, oneIf, h]

/-! ## Shifts -/

theorem shiftLeft_eq_ofNat (a : Word) (amount : BitVec 5) :
    shiftLeft a amount = BitVec.ofNat 32 (a.toNat * 2 ^ amount.toNat) := by
  apply BitVec.eq_of_toNat_eq
  rw [shiftLeft, BitVec.toNat_shiftLeft, Nat.shiftLeft_eq, BitVec.toNat_ofNat]

theorem shiftRightLogical_eq_ofNat (a : Word) (amount : BitVec 5) :
    shiftRightLogical a amount = BitVec.ofNat 32 (a.toNat / 2 ^ amount.toNat) := by
  rw [shiftRightLogical, ← Nat.shiftRight_eq_div_pow, ← BitVec.toNat_ushiftRight, BitVec.ofNat_toNat,
    BitVec.setWidth_eq]

/-- Copies of bit 31 at the top make the quotient round toward minus infinity. -/
theorem shiftRightArith_eq_ofInt (a : Word) (amount : BitVec 5) :
    shiftRightArith a amount = BitVec.ofInt 32 (a.toInt / 2 ^ amount.toNat) := by
  rw [shiftRightArith, ← BitVec.ofInt_toInt (x := a.sshiftRight _), BitVec.toInt_sshiftRight,
    Int.shiftRight_eq_div_pow]
  norm_cast

/-! ## The mode bit of a shift-immediate (R58, R96) -/

/-- The mode bit is the top bit of the six encoded ones, so it is set from 32 on. -/
theorem getLsbD_five_eq_decide (imm6 : BitVec 6) : imm6.getLsbD 5 = decide (32 ≤ imm6.toNat) :=
  (BitVec.msb_eq_getLsbD_last imm6).symm.trans (BitVec.msb_eq_decide imm6)

section
variable (rd rs1 : RegIdx) (hi imm6 : BitVec 6) (s : State)

theorem getLsbD_operandsI_imm6 {k : Nat} (hk : k < 6) :
    (operandsI rd rs1 (hi ++ imm6) s).imm.getLsbD k = imm6.getLsbD k := by
  rw [operandsI, getLsbD_signExtend_word _ (by omega), if_pos (by omega)]
  exact (BitVec.getLsbD_append (x := hi) (y := imm6)).trans (if_pos hk)

theorem modeBit_operandsI : (operandsI rd rs1 (hi ++ imm6) s).modeBit = decide (32 ≤ imm6.toNat) := by
  rw [Operands.modeBit, getLsbD_operandsI_imm6 _ _ _ _ _ (by decide), getLsbD_five_eq_decide]

theorem shamt_operandsI : (operandsI rd rs1 (hi ++ imm6) s).shamt = imm6.setWidth 5 := by
  apply BitVec.eq_of_getLsbD_eq
  intro k hk
  rw [Operands.shamt, BitVec.getLsbD_extractLsb', BitVec.getLsbD_setWidth, Nat.zero_add,
    getLsbD_operandsI_imm6 _ _ _ _ _ (by omega)]

end

section
variable {i : Instr} {rd rs1 : RegIdx} {hi imm6 : BitVec 6} {shift : Word → BitVec 5 → Word} {s : State}

theorem completesWriting_of_shiftImmediate
    (h : exec i s = shiftImmediate (operandsI rd rs1 (hi ++ imm6) s) shift s) (hclear : imm6.toNat < 32) :
    CompletesWriting i s rd (shift (s.readReg rs1) (imm6.setWidth 5)) (s.pc + 4#32) [] := by
  apply completesWriting_of_writeAndAdvance
  rw [h, shiftImmediate, modeBit_operandsI, shamt_operandsI, if_neg (by simpa using hclear)]
  rfl

theorem completesRejected_of_shiftImmediate
    (h : exec i s = shiftImmediate (operandsI rd rs1 (hi ++ imm6) s) shift s) (hset : 32 ≤ imm6.toNat) :
    CompletesRejected i s := by
  apply completesRejected_of_rejectShift
  rw [h, shiftImmediate, modeBit_operandsI, if_pos (by simpa using hset)]

end

/-! ## The obligations -/

/-- Settles O18: the rows are entries 1 and 2, and the operand of type U is the field times 4096. -/
theorem upperImmediateResults : Obligations.UpperImmediateResults := by
  refine ⟨tableRow_of_action 0 .lui rfl fun _ => rfl, tableRow_of_action 1 .auipc rfl fun _ => rfl,
    fun rd imm20 s => ⟨?_, ?_⟩⟩
  · rw [← immU_eq_ofNat]
    exact completesWriting_of_writeAndAdvance rfl
  · rw [← add_immU_eq_ofNat]
    exact completesWriting_of_writeAndAdvance rfl

/-- Settles O19: sign extension keeps the immediate's signed value, and taken modulo `2^32` it is the unsigned one. -/
theorem addAndCompareImmediateResults : Obligations.AddAndCompareImmediateResults := by
  refine ⟨tableRow_of_action 2 .addi rfl fun _ => rfl, tableRow_of_action 3 .slti rfl fun _ => rfl,
    tableRow_of_action 4 .sltiu rfl fun _ => rfl, fun rd rs1 imm s => ⟨?_, ?_, ?_⟩⟩
  · rw [← add_immI_eq_ofInt]
    exact completesWriting_of_writeAndAdvance rfl
  · rw [← toInt_immI, ← boolWord_eq_oneIf (ltSigned_iff _ _)]
    exact completesWriting_of_writeAndAdvance rfl
  · have hlt : ltUnsigned (s.readReg rs1) (imm.signExtend 32) = true
        ↔ ((s.readReg rs1).toNat : Int) < imm.toInt % 2 ^ 32 := by
      rw [ltUnsigned_iff, ← toNat_immI, Int.ofNat_lt]
    rw [← boolWord_eq_oneIf hlt]
    exact completesWriting_of_writeAndAdvance rfl

/-- Settles O20: the operators act bit by bit, on the sign-extended immediate. -/
theorem logicalImmediateResults : Obligations.LogicalImmediateResults := by
  refine ⟨tableRow_of_action 5 .xori rfl fun _ => rfl, tableRow_of_action 6 .ori rfl fun _ => rfl,
    tableRow_of_action 7 .andi rfl fun _ => rfl, fun rd rs1 imm s =>
    ⟨⟨_, completesWriting_of_writeAndAdvance rfl, fun k hk => ?_⟩,
      ⟨_, completesWriting_of_writeAndAdvance rfl, fun k hk => ?_⟩,
      ⟨_, completesWriting_of_writeAndAdvance rfl, fun k hk => ?_⟩⟩⟩
  · rw [← getLsbD_signExtend_imm12 imm hk]
    exact BitVec.getLsbD_xor
  · rw [← getLsbD_signExtend_imm12 imm hk]
    exact BitVec.getLsbD_or
  · rw [← getLsbD_signExtend_imm12 imm hk]
    exact BitVec.getLsbD_and

/-- Settles O21: the mode bit is the top bit of `imm6`; below 32 the amount is `imm6`, and each shift is its quotient or
product. -/
theorem shiftImmediateResults : Obligations.ShiftImmediateResults := by
  refine ⟨tableRow_of_action 8 .slli rfl fun _ => rfl, tableRow_of_action 9 .srli rfl fun _ => rfl,
    tableRow_of_action 10 .srai rfl fun _ => rfl, fun rd rs1 imm6 s => ⟨fun hclear => ?_, fun hset => ?_⟩⟩
  · have hamount : (imm6.setWidth 5).toNat = imm6.toNat := by
      rw [BitVec.toNat_setWidth, Nat.mod_eq_of_lt hclear]
    rw [← hamount, ← shiftLeft_eq_ofNat, ← shiftRightLogical_eq_ofNat, ← shiftRightArith_eq_ofInt]
    exact ⟨completesWriting_of_shiftImmediate rfl hclear, completesWriting_of_shiftImmediate rfl hclear,
      completesWriting_of_shiftImmediate rfl hclear⟩
  · exact ⟨completesRejected_of_shiftImmediate rfl hset, completesRejected_of_shiftImmediate rfl hset,
      completesRejected_of_shiftImmediate rfl hset⟩

/-- Settles O22: the word decodes to the shift of its row, whose mode bit is bit 25 of the word. -/
theorem shiftImmediateWithModeBitIsRejected : Obligations.ShiftImmediateWithModeBitIsRejected := by
  intro w s hmatch hbit
  obtain ⟨⟨-, hslli⟩, ⟨-, hsrli⟩, ⟨-, hsrai⟩, hresults⟩ := shiftImmediateResults
  have hset : 32 ≤ (w.extractLsb' 20 6).toNat := by
    apply of_decide_eq_true
    rw [← getLsbD_five_eq_decide, BitVec.getLsbD_extractLsb', hbit]
    rfl
  obtain ⟨-, hrejected⟩ := hresults (w.extractLsb' 7 5) (w.extractLsb' 15 5) (w.extractLsb' 20 6) s
  obtain ⟨rslli, rsrli, rsrai⟩ := hrejected hset
  rcases hmatch with h | h | h
  · rwa [hslli w h]
  · rwa [hsrli w h]
  · rwa [hsrai w h]

end Sys2Proof.Machine
end

section
/-! SUPPORT. The integer-register instructions (spec/42_integer_register.md): the operators on two registers in exact
arithmetic, and the obligations on them. The rows and the frame are those of the integer-immediate instructions. -/

namespace Sys2Proof.Machine

/-- R101: the wrapped difference is the difference of the signed values, taken modulo `2^32`. -/
theorem sub_eq_ofInt (a b : Word) : a - b = BitVec.ofInt 32 (a.toInt - b.toInt) := by
  apply BitVec.eq_of_toInt_eq
  rw [BitVec.toInt_sub, BitVec.toInt_ofInt]

/-- R102: the low five bits of a word are its remainder modulo 32. -/
theorem toNat_shiftAmount (a : Word) : (shiftAmount a).toNat = a.toNat % 32 := by
  rw [shiftAmount, BitVec.extractLsb'_toNat, Nat.shiftRight_zero]

/-- Settles O23: the sum and the difference wrap as exact integers do, and a comparison gives 1 exactly where the integers
the two words stand for compare. -/
theorem registerArithmeticResults : Obligations.RegisterArithmeticResults := by
  refine ⟨tableRow_of_action 11 .add rfl fun _ => rfl, tableRow_of_action 12 .sub rfl fun _ => rfl,
    tableRow_of_action 14 .slt rfl fun _ => rfl, tableRow_of_action 15 .sltu rfl fun _ => rfl,
    fun rd rs1 rs2 s => ⟨?_, ?_, ?_, ?_⟩⟩
  · rw [← BitVec.add_def]
    exact completesWriting_of_writeAndAdvance rfl
  · rw [← sub_eq_ofInt]
    exact completesWriting_of_writeAndAdvance rfl
  · rw [← boolWord_eq_oneIf (ltSigned_iff _ _)]
    exact completesWriting_of_writeAndAdvance rfl
  · rw [← boolWord_eq_oneIf (ltUnsigned_iff _ _)]
    exact completesWriting_of_writeAndAdvance rfl

/-- Settles O24: each action writes the library's bitwise operator on the two registers, whose bits are known. -/
theorem registerLogicResults : Obligations.RegisterLogicResults := by
  refine ⟨tableRow_of_action 16 .xor rfl fun _ => rfl, tableRow_of_action 19 .or rfl fun _ => rfl,
    tableRow_of_action 20 .and rfl fun _ => rfl, fun rd rs1 rs2 s => ⟨?_, ?_, ?_⟩⟩
  · exact ⟨_, completesWriting_of_writeAndAdvance rfl, fun _ _ => BitVec.getLsbD_xor⟩
  · exact ⟨_, completesWriting_of_writeAndAdvance rfl, fun _ _ => BitVec.getLsbD_or⟩
  · exact ⟨_, completesWriting_of_writeAndAdvance rfl, fun _ _ => BitVec.getLsbD_and⟩

/-- Settles O25: the amount is the second register modulo 32, and each shift is the product or the quotient by that power
of two, as for the shifts by an immediate. -/
theorem registerShiftResults : Obligations.RegisterShiftResults := by
  refine ⟨tableRow_of_action 13 .sll rfl fun _ => rfl, tableRow_of_action 17 .srl rfl fun _ => rfl,
    tableRow_of_action 18 .sra rfl fun _ => rfl, fun rd rs1 rs2 s => ?_⟩
  rw [← toNat_shiftAmount, ← shiftLeft_eq_ofNat, ← shiftRightLogical_eq_ofNat, ← shiftRightArith_eq_ofInt]
  exact ⟨completesWriting_of_writeAndAdvance rfl, completesWriting_of_writeAndAdvance rfl,
    completesWriting_of_writeAndAdvance rfl⟩

end Sys2Proof.Machine
end

section
/-! SUPPORT. The control-transfer instructions (spec/43_control_transfer.md): targets and links in exact arithmetic, how a
branch completes, and the obligations on them. The rows and the frame are those of the integer-immediate instructions. -/

namespace Sys2Proof.Machine

/-! ## Links and targets in exact arithmetic -/

/-- R13: the address after the instruction, as a jump links it (R110, R111). -/
theorem snpc_eq_ofNat (s : State) : s.snpc = BitVec.ofNat 32 (s.pc.toNat + 4) := BitVec.add_def s.pc 4#32

/-- R110, R112: a sign-extended offset counts as the signed integer it stands for. -/
theorem add_offset_eq_ofInt {n : Nat} (pc : Word) (offset : BitVec n) :
    pc + offset.signExtend 32 = BitVec.ofInt 32 ((pc.toNat : Int) + offset.toInt) := by
  rw [BitVec.ofInt_add, BitVec.ofInt_natCast, BitVec.ofNat_toNat, BitVec.setWidth_eq, BitVec.signExtend]

/-- R111: the even address at or below an integer, taken modulo `2^32`. The mask shifts bit 0 out and back, and the modulus
is even, so halving and reducing commute. -/
theorem ofInt_and_evenMask (x : Int) :
    BitVec.ofInt 32 x &&& 0xfffffffe#32 = BitVec.ofInt 32 (2 * (x / 2)) := by
  have hmask : (0xfffffffe#32 : Word) = BitVec.allOnes 32 <<< 1 := by decide
  apply BitVec.eq_of_toNat_eq
  rw [hmask, ← BitVec.shiftLeft_ushiftRight, BitVec.toNat_shiftLeft, BitVec.toNat_ushiftRight, BitVec.toNat_ofInt,
    BitVec.toNat_ofInt, Nat.shiftRight_eq_div_pow, Nat.shiftLeft_eq]
  omega

/-! ## How a branch completes -/

/-- R115: "at or above" is the comparison `blt` makes, negated. -/
theorem not_ltSigned_iff (a b : Word) : (!ltSigned a b) = true ↔ b.toInt ≤ a.toInt := by
  rw [Bool.not_eq_true', ← Bool.not_eq_true, ltSigned_iff, Int.not_lt]

/-- R117: the same for `bltu`. -/
theorem not_ltUnsigned_iff (a b : Word) : (!ltUnsigned a b) = true ↔ b.toNat ≤ a.toNat := by
  rw [Bool.not_eq_true', ← Bool.not_eq_true, ltUnsigned_iff, Nat.not_lt]

/-- R112 to R117: a branch whose test decides `p` goes to its target exactly where `p` holds. -/
theorem completesMoving_of_branchIf {i : Instr} {rs1 rs2 : RegIdx} {offset : BitVec 13} {s : State} {cond : Bool}
    {p : Prop} [Decidable p] (h : exec i s = branchIf cond (operandsB rs1 rs2 offset s) s) (hcond : cond = true ↔ p) :
    CompletesMoving i s (if p then BitVec.ofInt 32 ((s.pc.toNat : Int) + offset.toInt) else s.pc + 4#32) := by
  apply completesMoving_of_exec_eq
  rw [h, branchIf, ← add_offset_eq_ofInt]
  simp only [hcond]
  rfl

/-! ## The obligations -/

/-- Settles O26: both write the link; `jal` adds its signed offset to `pc`, and the mask of `jalr` leaves twice the
halved sum. -/
theorem jumpResults : Obligations.JumpResults := by
  refine ⟨tableRow_of_action 21 .jal rfl fun _ => rfl, tableRow_of_action 22 .jalr rfl fun _ => rfl,
    fun rd rs1 offset imm s => ⟨?_, ?_⟩⟩
  · rw [← snpc_eq_ofNat, ← add_offset_eq_ofInt]
    exact completesWriting_of_exec_eq rfl
  · rw [← snpc_eq_ofNat, ← ofInt_and_evenMask, ← add_immI_eq_ofInt]
    exact completesWriting_of_exec_eq rfl

/-- Settles O27: each branch is `branchIf` on a test that decides its condition. -/
theorem branchResults : Obligations.BranchResults := by
  refine ⟨tableRow_of_action 23 .beq rfl fun _ => rfl, tableRow_of_action 24 .bne rfl fun _ => rfl,
    tableRow_of_action 25 .blt rfl fun _ => rfl, tableRow_of_action 26 .bge rfl fun _ => rfl,
    tableRow_of_action 27 .bltu rfl fun _ => rfl, tableRow_of_action 28 .bgeu rfl fun _ => rfl,
    fun rs1 rs2 offset s => ⟨?_, ?_, ?_, ?_, ?_, ?_⟩⟩
  · exact completesMoving_of_branchIf rfl beq_iff_eq
  · exact completesMoving_of_branchIf rfl bne_iff_ne
  · exact completesMoving_of_branchIf rfl (ltSigned_iff _ _)
  · exact completesMoving_of_branchIf rfl (not_ltSigned_iff _ _)
  · exact completesMoving_of_branchIf rfl (ltUnsigned_iff _ _)
  · exact completesMoving_of_branchIf rfl (not_ltUnsigned_iff _ _)

end Sys2Proof.Machine
end

section
/-! SUPPORT. Loads and stores (spec/44_load_store.md): the value a load reads in exact arithmetic, the bytes a store
leaves, how a load and a store complete or fault, and the obligations on them. -/

namespace Sys2Proof.Machine

/-! ## The value of a read (R31, R33) -/

/-- A concatenation is its high part times a power of two, plus its low part. -/
theorem toNat_append_eq_add {m n : Nat} (hi : BitVec m) (lo : BitVec n) :
    (hi ++ lo).toNat = hi.toNat * 2 ^ n + lo.toNat := by
  rw [BitVec.toNat_append, ← Nat.shiftLeft_add_eq_or_of_lt lo.isLt, Nat.shiftLeft_eq]

section
variable (m : Memory) (a : Word)

/-- R124: `MemRead` of one byte, as `lbu` loads it. -/
theorem Memory.read_one_eq_ofNat : Memory.read m a .one = BitVec.ofNat 32 (Memory.byte m a).toNat :=
  (BitVec.ofNat_toNat 32 (Memory.byte m a)).symm

theorem Memory.read_two_eq_ofNat : Memory.read m a .two
    = BitVec.ofNat 32 ((Memory.byte m (a + 1#32)).toNat * 256 + (Memory.byte m a).toNat) := by
  rw [Memory.read, ← BitVec.ofNat_toNat, toNat_append_eq_add]
  rfl

/-- The lowest address is the least significant byte. -/
theorem Memory.read_four_eq_ofNat : Memory.read m a .four
    = BitVec.ofNat 32 ((Memory.byte m (a + 3#32)).toNat * 2 ^ 24 + (Memory.byte m (a + 2#32)).toNat * 2 ^ 16
      + (Memory.byte m (a + 1#32)).toNat * 2 ^ 8 + (Memory.byte m a).toNat) := by
  apply BitVec.eq_of_toNat_eq
  rw [Memory.read, BitVec.toNat_ofNat, Nat.mod_eq_of_lt (by omega)]
  simp only [toNat_append_eq_add]
  omega

/-- R121: sign extension keeps the signed value of the byte. -/
theorem signExtendByte_read_one :
    signExtendByte (Memory.read m a .one) = BitVec.ofInt 32 (Memory.byte m a).toInt := by
  rw [signExtendByte, Memory.read, BitVec.setWidth_setWidth_of_le _ (by decide), BitVec.setWidth_eq, BitVec.signExtend]

/-- R122: the sign of a halfword is that of its byte at the higher address. -/
theorem signExtendHalf_read_two : signExtendHalf (Memory.read m a .two)
    = BitVec.ofInt 32 ((Memory.byte m (a + 1#32)).toInt * 256 + (Memory.byte m a).toNat) := by
  rw [signExtendHalf, Memory.read, BitVec.setWidth_setWidth_of_le _ (by decide), BitVec.setWidth_eq, BitVec.signExtend,
    BitVec.toInt_append, if_neg (by decide), mul_comm]
  rfl

end

/-! ## The bytes of a write (R32) -/

/-- The byte at the `k`-th address of a write is the `k`-th byte of the value, the lowest first. -/
theorem Memory.byte_write_of_getElem? {m : Memory} (hm : Memory.wf m) {a b : Word} (v : Word) {w : Width} {k : Nat}
    (hk : (w.addrs a)[k]? = some b) : Memory.byte (Memory.write m a v w) b = v.extractLsb' (8 * k) 8 := by
  obtain ⟨hfour0, hfour1, hfour2, hfour3⟩ := Memory.byte_write_four hm a v
  match w, k, hk with
  | .one, 0, rfl => simp [Memory.write, Memory.byte_setByte hm]
  | .two, 0, rfl =>
    simp [Memory.write, Memory.byte_setByte (Memory.wf_setByte hm _ _), Memory.byte_setByte hm]
  | .two, 1, rfl => simp [Memory.write, Memory.byte_setByte (Memory.wf_setByte hm _ _)]
  | .four, 0, rfl => exact hfour0
  | .four, 1, rfl => exact hfour1
  | .four, 2, rfl => exact hfour2
  | .four, 3, rfl => exact hfour3

/-! ## How a load and a store complete or fault -/

/-- R38: an action that raises the memory fault writes no register, whatever port call it made. -/
theorem raisesMemFault_of_takeRaise {i : Instr} {s : State} {c : PortCall}
    (h : exec i s = .next (takeRaise (s.logCall c) (.fatal .memFault))) : RaisesMemFault i s :=
  ⟨_, h, rfl, rfl, fun _ => rfl⟩

section
variable {i : Instr} {w : Width} {ext : Word → Word} {rd rs1 rs2 : RegIdx} {imm : BitVec 12} {s : State}

/-- R120: the call on the port is the one thing a load adds to writing a register. -/
theorem completesWriting_of_loadFrom (h : exec i s = loadFrom w ext (operandsI rd rs1 imm s) s)
    (hadmit : s.admitsAccess (operandsI rd rs1 imm s).address w = true) :
    CompletesWriting i s rd (ext (Memory.read s.mem (operandsI rd rs1 imm s).address w)) (s.pc + 4#32)
      [.read (operandsI rd rs1 imm s).address w] := by
  obtain ⟨-, hload⟩ := (loadFrom_cases w ext (operandsI rd rs1 imm s) s).resolve_right (by simp [hadmit])
  refine ⟨_, h.trans hload, State.readReg_writeReg_self _ _ _, fun r hr => ?_, rfl, by simp, fun a => by simp, ?_⟩
  · exact State.readReg_writeReg_other (s.logCall _) _ hr
  · constructor
    case pool => constructor <;> simp
    all_goals simp

theorem raisesMemFault_of_loadFrom (h : exec i s = loadFrom w ext (operandsI rd rs1 imm s) s)
    (hrefuse : s.admitsAccess (operandsI rd rs1 imm s).address w = false) : RaisesMemFault i s := by
  obtain ⟨-, hfault⟩ := (loadFrom_cases w ext (operandsI rd rs1 imm s) s).resolve_left (by simp [hrefuse])
  exact raisesMemFault_of_takeRaise (h.trans hfault)

theorem completesStoring_of_storeTo (h : exec i s = storeTo w (operandsS rs1 rs2 imm s) s) (hm : Memory.wf s.mem)
    (hadmit : s.admitsAccess (operandsS rs1 rs2 imm s).address w = true) :
    CompletesStoring i s (operandsS rs1 rs2 imm s).address w (s.readReg rs2) (w.truncate (s.readReg rs2)) := by
  obtain ⟨-, hstore⟩ := (storeTo_cases w (operandsS rs1 rs2 imm s) s).resolve_right (by simp [hadmit])
  refine ⟨_, h.trans hstore, fun _ => rfl, rfl, rfl, fun _ _ hk => Memory.byte_write_of_getElem? hm _ hk,
    fun b hb => Memory.byte_write_other hm _ _ w b hb, ?_⟩
  constructor
  case pool => constructor <;> rfl
  all_goals rfl

theorem raisesMemFault_of_storeTo (h : exec i s = storeTo w (operandsS rs1 rs2 imm s) s)
    (hrefuse : s.admitsAccess (operandsS rs1 rs2 imm s).address w = false) : RaisesMemFault i s := by
  obtain ⟨-, hfault⟩ := (storeTo_cases w (operandsS rs1 rs2 imm s) s).resolve_left (by simp [hrefuse])
  exact raisesMemFault_of_takeRaise (h.trans hfault)

end

/-! ## The obligations -/

/-- Settles O28: each load is `loadFrom` on its own operands, whose address is the exact sum taken modulo `2^32`, and the
extended value is the signed or unsigned number its bytes stand for. -/
theorem loadResults : Obligations.LoadResults := by
  refine ⟨tableRow_of_action 29 .lb rfl fun _ => rfl, tableRow_of_action 30 .lh rfl fun _ => rfl,
    tableRow_of_action 31 .lw rfl fun _ => rfl, tableRow_of_action 32 .lbu rfl fun _ => rfl,
    tableRow_of_action 33 .lhu rfl fun _ => rfl, fun rd rs1 imm s a ha => ?_⟩
  obtain rfl : a = (operandsI rd rs1 imm s).address := ha.trans (add_immI_eq_ofInt _ _).symm
  rw [← signExtendByte_read_one, ← Memory.read_one_eq_ofNat, ← signExtendHalf_read_two, ← Memory.read_two_eq_ofNat,
    ← Memory.read_four_eq_ofNat]
  exact ⟨fun h => ⟨completesWriting_of_loadFrom rfl h, completesWriting_of_loadFrom (ext := id) rfl h⟩,
    fun h => ⟨raisesMemFault_of_loadFrom rfl h, raisesMemFault_of_loadFrom rfl h⟩,
    fun h => ⟨completesWriting_of_loadFrom rfl h, completesWriting_of_loadFrom (ext := id) rfl h⟩,
    fun h => ⟨raisesMemFault_of_loadFrom rfl h, raisesMemFault_of_loadFrom rfl h⟩,
    fun h => completesWriting_of_loadFrom (ext := id) rfl h, fun h => raisesMemFault_of_loadFrom rfl h⟩

/-- Settles O29: each store is `storeTo` on its own operands, and the value on the port is the register cut to the width
of the access. -/
theorem storeResults : Obligations.StoreResults := by
  refine ⟨tableRow_of_action 34 .sb rfl fun _ => rfl, tableRow_of_action 35 .sh rfl fun _ => rfl,
    tableRow_of_action 36 .sw rfl fun _ => rfl, ?_⟩
  rintro rs1 rs2 imm s _ hm rfl
  rw [and_ff_eq_truncate, and_ffff_eq_truncate]
  exact ⟨add_immI_eq_ofInt _ _,
    completesStoring_of_storeTo rfl hm, raisesMemFault_of_storeTo rfl,
    completesStoring_of_storeTo rfl hm, raisesMemFault_of_storeTo rfl,
    completesStoring_of_storeTo rfl hm, raisesMemFault_of_storeTo rfl⟩

end Sys2Proof.Machine
end

section
/-! SUPPORT. The multiply and divide instructions (spec/45_muldiv.md): the words of a product and the truncated quotient
and remainder in exact arithmetic, and the obligations on them. The rows and the frame are those of the
integer-immediate instructions. -/

namespace Sys2Proof.Machine

/-! ## The words of a product (R131 to R134) -/

/-- The upper half of a doubleword is the integer's quotient by `2^32`, rounded down, whatever its sign. -/
theorem upperWord_ofInt (x : Int) : (BitVec.ofInt 64 x).extractLsb' 32 32 = BitVec.ofInt 32 (x / 2 ^ 32) := by
  apply BitVec.eq_of_toNat_eq
  rw [BitVec.extractLsb'_toNat, BitVec.toNat_ofInt, BitVec.toNat_ofInt, Nat.shiftRight_eq_div_pow]
  omega

/-- R131: the lower word of a product does not depend on how the operands are read. -/
theorem mulLow_eq_ofInt (a b : Word) : mulLow a b = BitVec.ofInt 32 (a.toInt * b.toInt) := by
  calc mulLow a b = BitVec.ofNat 32 (a.toNat * b.toNat) := by
        rw [mulLow, ← BitVec.setWidth_eq_extractLsb' (by decide), BitVec.setWidth_ofNat_of_le (by decide)]
    _ = a * b := (BitVec.mul_def).symm
    _ = BitVec.ofInt 32 (a.toInt * b.toInt) := by
        rw [BitVec.ofInt_mul, BitVec.ofInt_toInt, BitVec.ofInt_toInt]

theorem mulHighSigned_eq_ofInt (a b : Word) :
    mulHighSigned a b = BitVec.ofInt 32 (a.toInt * b.toInt / 2 ^ 32) := upperWord_ofInt _

theorem mulHighSignedUnsigned_eq_ofInt (a b : Word) :
    mulHighSignedUnsigned a b = BitVec.ofInt 32 (a.toInt * (b.toNat : Int) / 2 ^ 32) := upperWord_ofInt _

theorem mulHighUnsigned_eq_ofNat (a b : Word) :
    mulHighUnsigned a b = BitVec.ofNat 32 (a.toNat * b.toNat / 2 ^ 32) := by
  rw [mulHighUnsigned, ← BitVec.ofInt_natCast, upperWord_ofInt, ← BitVec.ofInt_natCast]
  norm_cast

/-! ## Truncated division by sign and size (R135, R137) -/

/-- Truncation toward zero divides the sizes and multiplies the signs. -/
theorem tdiv_eq_sign_mul_natAbs_div (a b : Int) : a.tdiv b = a.sign * b.sign * (a.natAbs / b.natAbs : Nat) := by
  have hsize : (a.tdiv b).natAbs = a.natAbs / b.natAbs := Int.natAbs_tdiv a b
  rw [← Int.sign_mul_natAbs (a.tdiv b), hsize, Int.sign_tdiv]
  split
  case isTrue hlt => rw [Nat.div_eq_of_lt hlt, Int.natCast_zero, Int.mul_zero, Int.mul_zero]
  case isFalse => rfl

/-- The remainder of the sizes, with the sign of the dividend. -/
theorem tmod_eq_sign_mul_natAbs_mod (a b : Int) : a.tmod b = a.sign * (a.natAbs % b.natAbs : Nat) := by
  rw [← Int.sign_mul_natAbs (a.tmod b), Int.natAbs_tmod, Int.sign_tmod]
  split
  case isTrue hdvd =>
    rw [Nat.mod_eq_zero_of_dvd (Int.natAbs_dvd_natAbs.mpr hdvd), Int.natCast_zero, Int.mul_zero, Int.mul_zero]
  case isFalse => rfl

theorem divSigned_eq (a b : Word) : divSigned a b =
    if b = 0#32 then 0xffffffff#32 else if a = 0x80000000#32 ∧ b = 0xffffffff#32 then 0x80000000#32
      else BitVec.ofInt 32 (a.toInt.sign * b.toInt.sign * (a.toInt.natAbs / b.toInt.natAbs : Nat)) := by
  rw [divSigned, tdiv_eq_sign_mul_natAbs_div]

theorem remSigned_eq (a b : Word) : remSigned a b =
    if b = 0#32 then a else if a = 0x80000000#32 ∧ b = 0xffffffff#32 then 0#32
      else BitVec.ofInt 32 (a.toInt.sign * (a.toInt.natAbs % b.toInt.natAbs : Nat)) := by
  rw [remSigned, ← Int.tmod_def, tmod_eq_sign_mul_natAbs_mod]

/-! ## The obligations -/

/-- Settles O32: the lower word is the product modulo `2^32`, an upper word the exact product's quotient by `2^32`. -/
theorem multiplyResults : Obligations.MultiplyResults := by
  refine ⟨tableRow_of_action 37 .mul rfl fun _ => rfl, tableRow_of_action 38 .mulh rfl fun _ => rfl,
    tableRow_of_action 39 .mulhsu rfl fun _ => rfl, tableRow_of_action 40 .mulhu rfl fun _ => rfl,
    fun rd rs1 rs2 s => ?_⟩
  rw [← mulLow_eq_ofInt, ← mulHighSigned_eq_ofInt, ← mulHighSignedUnsigned_eq_ofInt, ← mulHighUnsigned_eq_ofNat]
  exact ⟨completesWriting_of_writeAndAdvance rfl, completesWriting_of_writeAndAdvance rfl,
    completesWriting_of_writeAndAdvance rfl, completesWriting_of_writeAndAdvance rfl⟩

/-- Settles O33: the signed pair is the truncated division by sign and size; the special cases and the unsigned pair
stand in the operations as the statement has them. -/
theorem divideResults : Obligations.DivideResults := by
  refine ⟨tableRow_of_action 41 .div rfl fun _ => rfl, tableRow_of_action 42 .divu rfl fun _ => rfl,
    tableRow_of_action 43 .rem rfl fun _ => rfl, tableRow_of_action 44 .remu rfl fun _ => rfl, ?_⟩
  rintro rd rs1 rs2 s _ _ rfl rfl
  rw [← divSigned_eq, ← remSigned_eq]
  exact ⟨completesWriting_of_writeAndAdvance rfl, completesWriting_of_writeAndAdvance rfl,
    completesWriting_of_writeAndAdvance rfl, completesWriting_of_writeAndAdvance rfl⟩

end Sys2Proof.Machine
end

section
/-! SUPPORT. The two instructions that trap (spec/46_system.md): the state a debug trap leaves, and the obligations on
them. The row of `ebreak` comes from the integer-immediate instructions, the trap of `inv` from the invalid
instruction. -/

namespace Sys2Proof.Machine

/-- R140, R184: an instruction that raises `DebugTrap` and does nothing else ends in TRAPPED_OK with the trap frame. -/
theorem completesTrapping_of_raisesDebugTrap {i : Instr} {s : State} {v : Word}
    (h : exec i s = .next (takeRaise s (.debugTrap v))) :
    CompletesTrapping i s .trappedOk (takeRaise s (.debugTrap v)) :=
  ⟨h, takeRaise_debugTrap_runState s v, takeRaise_debugTrap_trapPc s v, rfl, takeRaise_pc s _, fun _ => rfl,
    fun _ => rfl, rfl, takeRaise_port s _, by constructor <;> rfl⟩

/-- Settles O35: the action of `ebreak` is the debug trap of `x[10]`, and taking it records that value. -/
theorem debugTrapRecordsTheReturnValue : Obligations.DebugTrapRecordsTheReturnValue := by
  refine ⟨tableRow_of_action 45 .ebreak rfl fun _ => rfl, fun s => ?_⟩
  have hraise : exec .ebreak s = .next (takeRaise s (.debugTrap (s.readReg trapRetReg))) := rfl
  exact ⟨_, completesTrapping_of_raisesDebugTrap hraise, takeRaise_debugTrap_haltRet s _⟩

/-- Settles O36: the catch-all closes the default table, so the words that entries 1 to 46 leave reach it, and `inv`
traps whatever its word. -/
theorem invalidInstructionTraps : Obligations.InvalidInstructionTraps :=
  ⟨⟨rfl, rfl⟩, fun _ => decodeWord_of_none, inv_completesTrapping⟩

end Sys2Proof.Machine
end

section
/-! SUPPORT. The unary retag pass (spec/49_watch_expression.md R156): the type the pass carries stands for the type before
it, so the pass is a map over the positions of the tokens before it, and the obligation on it. -/

namespace Sys2Proof.Machine

/-! ## The test on the preceding token -/

theorem endsOperand_some_iff (type : TokenType) :
    endsOperand (some type) = true ↔ type ∈ [TokenType.dec, .hex, .reg, .rparen] := by
  cases type <;> decide

theorem retagType_of_endsOperand {prev : Option TokenType} (h : endsOperand prev = true) (type : TokenType) :
    retagType prev type = type :=
  if_pos h

/-- The pass looks at the preceding type through `endsOperand` only. -/
theorem retagType_congr {p q : Option TokenType} (h : endsOperand p = endsOperand q) : retagType p = retagType q := by
  funext type
  simp only [retagType, h]

theorem retagType_of_not_endsOperand {prev : Option TokenType} (h : endsOperand prev = false) (type : TokenType) :
    retagType prev type = retagType none type :=
  congrFun (retagType_congr h) type

theorem retagType_of_ne_minus_of_ne_star (prev : Option TokenType) {type : TokenType} (hminus : type ≠ .minus)
    (hstar : type ≠ .star) : retagType prev type = type := by
  cases type
  case minus => exact absurd rfl hminus
  case star => exact absurd rfl hstar
  all_goals exact ite_self _

/-- R156, "whether or not that token was itself retagged": a retagged type ends an operand exactly when the type before
the pass does. -/
theorem endsOperand_retagType (prev : Option TokenType) (type : TokenType) :
    endsOperand (some (retagType prev type)) = endsOperand (some type) := by
  cases hprev : endsOperand prev
  case true => rw [retagType_of_endsOperand hprev]
  case false =>
    rw [retagType_of_not_endsOperand hprev]
    cases type <;> rfl

/-! ## The pass at a position -/

theorem retagFrom_congr {p q : Option TokenType} (h : endsOperand p = endsOperand q) (tokens : List Token) :
    retagFrom p tokens = retagFrom q tokens := by
  cases tokens with
  | nil => rfl
  | cons t rest => rw [retagFrom, retagFrom, retagType_congr h]

/-- The type before the pass of the token that precedes position `i`, where `prev` precedes the whole list. -/
def typeBefore (prev : Option TokenType) (tokens : List Token) : Nat → Option TokenType
  | 0 => prev
  | i + 1 => tokens[i]?.map Token.type

theorem typeBefore_cons_succ (prev : Option TokenType) (t : Token) (rest : List Token) (i : Nat) :
    typeBefore prev (t :: rest) (i + 1) = typeBefore (some t.type) rest i := by
  cases i <;> rfl

/-- R156: the pass is order-independent, each type depending on the types before the pass only. -/
theorem retagFrom_getElem? (prev : Option TokenType) (tokens : List Token) (i : Nat) :
    (retagFrom prev tokens)[i]? =
      tokens[i]?.map fun t => { t with type := retagType (typeBefore prev tokens i) t.type } := by
  induction tokens generalizing prev i with
  | nil => rfl
  | cons t rest ih =>
    cases i with
    | zero => rfl
    | succ i =>
      rw [retagFrom, List.getElem?_cons_succ, List.getElem?_cons_succ, typeBefore_cons_succ,
        retagFrom_congr (endsOperand_retagType prev t.type), ih]

/-- The condition of R156 for a unary operator at the position of a token. -/
theorem not_endsOperand_typeBefore_iff {tokens : List Token} {i : Nat} {t : Token} (h : tokens[i]? = some t) :
    endsOperand (typeBefore none tokens i) = false ↔
      i = 0 ∨ ∃ p, tokens[i - 1]? = some p ∧ p.type ∉ [TokenType.dec, .hex, .reg, .rparen] := by
  cases i with
  | zero => exact iff_of_true rfl (.inl rfl)
  | succ i =>
    have hlt : i < tokens.length := Nat.lt_of_succ_lt (List.getElem?_eq_some_iff.mp h).1
    rw [typeBefore, Nat.add_sub_cancel, List.getElem?_eq_getElem hlt, Option.map_some, ← Bool.not_eq_true,
      endsOperand_some_iff]
    simp

/-! ## The obligation -/

/-- Settles O54: the pass at a position is `retagType` of the type that precedes it before the pass. -/
theorem retagPassIsTheRule : Obligations.RetagPassIsTheRule := by
  refine fun tokens => ⟨retagFrom_length none tokens, fun i t ht =>
    ⟨{ t with type := retagType (typeBefore none tokens i) t.type }, ?_, rfl, ?_⟩⟩
  · rw [retag, retagFrom_getElem?, ht, Option.map_some]
  · intro unary
    have hunary : endsOperand (typeBefore none tokens i) = false ↔ unary := not_endsOperand_typeBefore_iff ht
    refine ⟨fun hminus h => ?_, fun hstar h => ?_, fun h => ?_, retagType_of_ne_minus_of_ne_star _⟩
    · rw [hminus]
      exact retagType_of_not_endsOperand (hunary.mpr h) .minus
    · rw [hstar]
      exact retagType_of_not_endsOperand (hunary.mpr h) .star
    · exact retagType_of_endsOperand (Bool.eq_true_of_not_eq_false (mt hunary.mp h)) t.type

end Sys2Proof.Machine
end

section
/-! SUPPORT. The round trip of the encoding (30_encoding.md R46, R47, R61, R64): which words the entries 1 to 46 match,
that what an entry selects encodes to its word, and the obligations on decoder and encoder. -/

namespace Sys2Proof.Machine

open Laws

/-! ## The reserved words of R64 match no entry -/

/-- `isReserved` by the fields it reads: opcode, `funct3`, `inst[31:26]`, `funct7`, and whether the word is not
`ebreak`. -/
def reservedFields (opcode funct3 hi funct7 : Nat) (notEbreak : Bool) : Bool :=
  match opcode with
  | 0b0110111 => false
  | 0b0010111 => false
  | 0b1101111 => false
  | 0b1100111 => funct3 != 0
  | 0b1100011 => [2, 3].contains funct3
  | 0b0000011 => [3, 6, 7].contains funct3
  | 0b0100011 => !([0, 1, 2].contains funct3)
  | 0b0010011 =>
    match funct3 with
    | 1 => hi != 0
    | 5 => !([0, 0b010000].contains hi)
    | _ => false
  | 0b0110011 =>
    match funct7 with
    | 0 => false
    | 0b0100000 => !([0, 5].contains funct3)
    | 0b0000001 => false
    | _ => true
  | 0b1110011 => notEbreak
  | _ => true

theorem isReserved_eq_reservedFields (w : Word) :
    isReserved w = reservedFields (w.extractLsb' 0 7).toNat (w.extractLsb' 12 3).toNat (w.extractLsb' 26 6).toNat
      (w.extractLsb' 25 7).toNat (w != 0x00100073#32) := by
  unfold isReserved reservedFields
  rfl

/-- A field that an entry's mask covers is the field of the entry's value. -/
theorem field_of_match {e : Entry} {w : Word} (hm : w &&& e.mask = e.value) (i n : Nat)
    (hmask : e.mask.extractLsb' i n = BitVec.allOnes n) :
    (w.extractLsb' i n).toNat = (e.value.extractLsb' i n).toNat := by
  rw [extract_of_mask w e.mask e.value i n hm hmask]

/-- Which fields the map reads depends on the opcode, and among the shift-immediates on `funct3`. -/
theorem reservedFields_congr {opcode funct3 funct3' hi hi' funct7 funct7' : Nat} {b b' : Bool}
    (h3 : opcode ∉ [0b0110111, 0b0010111, 0b1101111] → funct3 = funct3')
    (hhi : opcode = 0b0010011 → funct3' ∈ [1, 5] → hi = hi') (h7 : opcode = 0b0110011 → funct7 = funct7')
    (hb : opcode = 0b1110011 → b = b') :
    reservedFields opcode funct3 hi funct7 b = reservedFields opcode funct3' hi' funct7' b' := by
  unfold reservedFields
  split
  case h_8 =>
    obtain rfl := h3 (by decide)
    split
    · rw [hhi rfl (by decide)]
    · rw [hhi rfl (by decide)]
    · rfl
  case h_9 => rw [h3 (by decide), h7 rfl]
  case h_10 => exact hb rfl
  case h_4 | h_5 | h_6 | h_7 => rw [h3 (by decide)]
  all_goals rfl

/-- R64, one way: the map in prose calls no word reserved that an entry of 1 to 46 matches, since every entry fixes the
fields the map reads for its opcode. -/
theorem not_isReserved_of_match {e : Entry} (he : e ∈ realEntries) {w : Word} (hm : w &&& e.mask = e.value) :
    isReserved w = false := by
  have hop : ∀ d ∈ realEntries, d.mask.extractLsb' 0 7 = BitVec.allOnes 7 := by decide
  have h3 : ∀ d ∈ realEntries, (d.value.extractLsb' 0 7).toNat ∉ [0b0110111, 0b0010111, 0b1101111] →
      d.mask.extractLsb' 12 3 = BitVec.allOnes 3 := by decide
  have hhi : ∀ d ∈ realEntries, (d.value.extractLsb' 0 7).toNat = 0b0010011 →
      (d.value.extractLsb' 12 3).toNat ∈ [1, 5] → d.mask.extractLsb' 26 6 = BitVec.allOnes 6 := by decide
  have h7 : ∀ d ∈ realEntries, (d.value.extractLsb' 0 7).toNat = 0b0110011 →
      d.mask.extractLsb' 25 7 = BitVec.allOnes 7 := by decide
  have hall : ∀ d ∈ realEntries, (d.value.extractLsb' 0 7).toNat = 0b1110011 → d.mask = BitVec.allOnes 32 := by decide
  have hvalue : ∀ d ∈ realEntries, isReserved d.value = false := by decide
  rw [← hvalue e he, isReserved_eq_reservedFields, isReserved_eq_reservedFields e.value,
    field_of_match hm 0 7 (hop e he)]
  refine reservedFields_congr (fun h => field_of_match hm 12 3 (h3 e he h)) (fun h h' => ?_)
    (fun h => field_of_match hm 25 7 (h7 e he h)) (fun h => ?_)
  · exact field_of_match hm 26 6 (hhi e he h h')
  · rw [← hm, hall e he h, BitVec.and_allOnes]

/-! ## Every other word matches an entry -/

/-- A word matches an entry that looks only at bits of `mask`, where the word's bits are those of `key`. -/
theorem exists_match_of_masked {w mask key : Word} (hw : w &&& mask = key)
    (h : ∃ e ∈ realEntries, mask &&& e.mask = e.mask ∧ key &&& e.mask = e.value) :
    ∃ e ∈ realEntries, w &&& e.mask = e.value := by
  obtain ⟨e, he, hmask, hkey⟩ := h
  refine ⟨e, he, ?_⟩
  rw [← hkey, ← hw, BitVec.and_assoc, hmask]

/-- Some entry looks only at bits of `mask` and matches the words that are `key` there. -/
def EntryFor (mask key : Word) : Prop := ∃ e ∈ realEntries, mask &&& e.mask = e.mask ∧ key &&& e.mask = e.value

theorem entryFor_opcode : ∀ opcode ∈ [0b0110111#7, 0b0010111#7, 0b1101111#7],
    EntryFor 0x0000007f#32 (encodeU opcode 0#5 0#20) := by
  unfold EntryFor
  decide

theorem entryFor_funct3 : ∀ opcode ∈ [0b1100111#7, 0b1100011#7, 0b0000011#7, 0b0100011#7, 0b0010011#7],
    ∀ funct3 : BitVec 3, reservedFields opcode.toNat funct3.toNat 1 0 false = false →
      EntryFor 0x0000707f#32 (encodeI funct3 opcode 0#5 0#5 0#12) := by
  unfold EntryFor
  decide

theorem entryFor_shift : ∀ funct3 : BitVec 3, funct3.toNat ∈ [1, 5] → ∀ hi ∈ [0b000000#6, 0b010000#6],
    reservedFields 0b0010011 funct3.toNat hi.toNat 0 false = false →
      EntryFor 0xfc00707f#32 (encodeI funct3 0b0010011#7 0#5 0#5 (hi ++ 0#6)) := by
  unfold EntryFor
  decide

theorem entryFor_funct7 : ∀ funct7 ∈ [0b0000000#7, 0b0100000#7, 0b0000001#7], ∀ funct3 : BitVec 3,
    reservedFields 0b0110011 funct3.toNat 0 funct7.toNat false = false →
      EntryFor 0xfe00707f#32 (encodeR funct7 funct3 0b0110011#7 0#5 0#5 0#5) := by
  unfold EntryFor
  decide

theorem eq_ofNat_of_toNat_eq {n k : Nat} {x : BitVec n} (h : x.toNat = k) : x = BitVec.ofNat n k := by
  rw [← h, BitVec.ofNat_toNat, BitVec.setWidth_eq]

section
variable {w : Word}

theorem exists_match_of_opcode (hop : w.extractLsb' 0 7 ∈ [0b0110111#7, 0b0010111#7, 0b1101111#7]) :
    ∃ e ∈ realEntries, w &&& e.mask = e.value :=
  exists_match_of_masked (maskU_eq w) (entryFor_opcode _ hop)

theorem exists_match_of_funct3
    (hop : w.extractLsb' 0 7 ∈ [0b1100111#7, 0b1100011#7, 0b0000011#7, 0b0100011#7, 0b0010011#7])
    (h : reservedFields (w.extractLsb' 0 7).toNat (w.extractLsb' 12 3).toNat 1 0 false = false) :
    ∃ e ∈ realEntries, w &&& e.mask = e.value :=
  exists_match_of_masked (maskI_eq w) (entryFor_funct3 _ hop _ h)

/-- An operation with an immediate: only the two values of `funct3` that shift read `inst[31:26]`. -/
theorem exists_match_of_opImm (hop : w.extractLsb' 0 7 = 0b0010011#7)
    (h : reservedFields 0b0010011 (w.extractLsb' 12 3).toNat (w.extractLsb' 26 6).toNat 0 false = false) :
    ∃ e ∈ realEntries, w &&& e.mask = e.value := by
  by_cases hshift : (w.extractLsb' 12 3).toNat ∈ [1, 5]
  · have hhi : ∀ funct3 : BitVec 3, funct3.toNat ∈ [1, 5] → ∀ hi : BitVec 6,
        reservedFields 0b0010011 funct3.toNat hi.toNat 0 false = false → hi ∈ [0b000000#6, 0b010000#6] := by decide
    refine exists_match_of_masked (maskShift_eq w) ?_
    rw [hop]
    exact entryFor_shift _ hshift _ (hhi _ hshift _ h) h
  · apply exists_match_of_funct3 (by rw [hop]; decide)
    rw [hop, ← h]
    exact reservedFields_congr (fun _ => rfl) (fun _ h' => absurd h' hshift) nofun nofun

theorem exists_match_of_op (hop : w.extractLsb' 0 7 = 0b0110011#7)
    (h : reservedFields 0b0110011 (w.extractLsb' 12 3).toNat 0 (w.extractLsb' 25 7).toNat false = false) :
    ∃ e ∈ realEntries, w &&& e.mask = e.value := by
  have hfunct7 : ∀ funct3 : BitVec 3, ∀ funct7 : BitVec 7,
      reservedFields 0b0110011 funct3.toNat 0 funct7.toNat false = false →
        funct7 ∈ [0b0000000#7, 0b0100000#7, 0b0000001#7] := by decide
  refine exists_match_of_masked (maskR_eq w) ?_
  rw [hop]
  exact entryFor_funct7 _ (hfunct7 _ _ h) _ h

theorem exists_match_of_eq_ebreak (h : w = 0x00100073#32) : ∃ e ∈ realEntries, w &&& e.mask = e.value := by
  rw [h]
  decide

/-- R64, the other way: for each opcode of the map, the fields the map reads give the entry that matches. -/
theorem exists_match_of_not_isReserved (h : isReserved w = false) : ∃ e ∈ realEntries, w &&& e.mask = e.value := by
  rw [isReserved_eq_reservedFields] at h
  generalize hop : (w.extractLsb' 0 7).toNat = opcode at h
  have hopcode : w.extractLsb' 0 7 = BitVec.ofNat 7 opcode := eq_ofNat_of_toNat_eq hop
  unfold reservedFields at h
  split at h
  case h_1 | h_2 | h_3 => exact exists_match_of_opcode (by rw [hopcode]; decide)
  case h_8 => exact exists_match_of_opImm hopcode h
  case h_9 => exact exists_match_of_op hopcode h
  case h_10 => exact exists_match_of_eq_ebreak (by simpa using h)
  case h_11 => cases h
  all_goals exact exists_match_of_funct3 (by rw [hopcode]; decide) (by rw [hopcode]; exact h)

end

theorem isReserved_iff (w : Word) : isReserved w = true ↔ ∀ e ∈ realEntries, w &&& e.mask ≠ e.value := by
  constructor
  · intro h e he hm
    rw [not_isReserved_of_match he hm] at h
    cases h
  · intro hnone
    by_contra h
    obtain ⟨e, he, hm⟩ := exists_match_of_not_isReserved (Bool.eq_false_of_not_eq_true h)
    exact hnone e he hm

/-! ## A word that matches is the encoding of what the entry selects -/

section
variable {w : Word} {funct7 : BitVec 7} {hi : BitVec 6} {funct3 : BitVec 3} {opcode : BitVec 7}

theorem opcode_of_match_U (h : w &&& 0x0000007f#32 = encodeU opcode 0#5 0#20) : w.extractLsb' 0 7 = opcode := by
  rw [extract_of_mask w _ _ 0 7 h (by decide), opcode_encodeU]

theorem funct3_opcode_of_match (h : w &&& 0x0000707f#32 = encodeI funct3 opcode 0#5 0#5 0#12) :
    w.extractLsb' 12 3 = funct3 ∧ w.extractLsb' 0 7 = opcode := by
  rw [extract_of_mask w _ _ 12 3 h (by decide), extract_of_mask w _ _ 0 7 h (by decide), funct3_encodeI, opcode_encodeI]
  exact ⟨rfl, rfl⟩

theorem encodeR_of_match (h : w &&& 0xfe00707f#32 = encodeR funct7 funct3 opcode 0#5 0#5 0#5) :
    encodeR funct7 funct3 opcode (rdField w) (rs1Field w) (rs2Field w) = w := by
  have h7 := extract_of_mask w _ _ 25 7 h (by decide)
  have h3 := extract_of_mask w _ _ 12 3 h (by decide)
  have hop := extract_of_mask w _ _ 0 7 h (by decide)
  rw [funct7_encodeR] at h7
  rw [funct3_encodeR] at h3
  rw [opcode_encodeR] at hop
  rw [← h7, ← h3, ← hop]
  exact encodeR_fields w

theorem encodeI_of_match (h : w &&& 0x0000707f#32 = encodeI funct3 opcode 0#5 0#5 0#12) :
    encodeI funct3 opcode (rdField w) (rs1Field w) (immIField w) = w := by
  obtain ⟨h3, hop⟩ := funct3_opcode_of_match h
  rw [← h3, ← hop]
  exact encodeI_fields w

theorem encodeShift_of_match (h : w &&& 0xfc00707f#32 = encodeShift hi funct3 opcode 0#5 0#5 0#6) :
    encodeShift hi funct3 opcode (rdField w) (rs1Field w) (imm6Field w) = w := by
  have hhi := extract_of_mask w _ _ 26 6 h (by decide)
  have h3 := extract_of_mask w _ _ 12 3 h (by decide)
  have hop := extract_of_mask w _ _ 0 7 h (by decide)
  rw [hi_encodeShift] at hhi
  rw [encodeShift_eq, funct3_encodeI] at h3
  rw [encodeShift_eq, opcode_encodeI] at hop
  rw [← hhi, ← h3, ← hop, encodeShift_eq, imm6Field, ← immI_halves]
  exact encodeI_fields w

theorem encodeU_of_match (h : w &&& 0x0000007f#32 = encodeU opcode 0#5 0#20) :
    encodeU opcode (rdField w) (immUField w) = w := by
  rw [← opcode_of_match_U h]
  exact encodeU_fields w

theorem encodeS_of_match (h : w &&& 0x0000707f#32 = encodeI funct3 opcode 0#5 0#5 0#12) :
    encodeS funct3 opcode (rs1Field w) (rs2Field w) (immSField w) = w := by
  obtain ⟨h3, hop⟩ := funct3_opcode_of_match h
  have hhi : (immSField w).extractLsb' 5 7 = w.extractLsb' 25 7 := by
    apply BitVec.eq_of_getLsbD_eq
    intro k hk
    simp only [BitVec.getLsbD_extractLsb', getLsbD_immSField]
    grind
  have hlo : (immSField w).extractLsb' 0 5 = w.extractLsb' 7 5 := by
    apply BitVec.eq_of_getLsbD_eq
    intro k hk
    simp only [BitVec.getLsbD_extractLsb', getLsbD_immSField]
    grind
  rw [← h3, ← hop, encodeS_eq, hhi, hlo]
  exact encodeR_fields w

theorem encodeB_of_match (h : w &&& 0x0000707f#32 = encodeI funct3 opcode 0#5 0#5 0#12) :
    encodeB funct3 opcode (rs1Field w) (rs2Field w) (immBField w) = w := by
  obtain ⟨h3, hop⟩ := funct3_opcode_of_match h
  rw [← h3, ← hop]
  apply BitVec.eq_of_getLsbD_eq
  intro k hk
  simp only [getLsbD_encodeB, getLsbD_immBField, rs1Field, rs2Field, BitVec.getLsbD_extractLsb']
  grind

theorem encodeJ_of_match (h : w &&& 0x0000007f#32 = encodeU opcode 0#5 0#20) :
    encodeJ opcode (rdField w) (immJField w) = w := by
  rw [← opcode_of_match_U h]
  apply BitVec.eq_of_getLsbD_eq
  intro k hk
  simp only [getLsbD_encodeJ, getLsbD_immJField, rdField, BitVec.getLsbD_extractLsb']
  grind

end

theorem evenOffset_immBField (w : Word) : evenOffset (immBField w) = true := by
  rw [evenOffset, getLsbD_immBField]
  rfl

theorem evenOffset_immJField (w : Word) : evenOffset (immJField w) = true := by
  rw [evenOffset, getLsbD_immJField]
  rfl

/-- What the entry selects from a word that matches it is a well-formed instruction with that word as its encoding. -/
def SelectsItsWord (e : Entry) : Prop :=
  ∀ w : Word, w &&& e.mask = e.value → ∃ i, e.select w = .instr i ∧ wellFormed i = true ∧ encode i = w

theorem immediateRows_selectTheirWord : ∀ r ∈ immediateRows, SelectsItsWord r.entry := by
  simp only [immediateRows, List.forall_mem_cons]
  refine ⟨?_, ?_, ?_, ?_, ?_, ?_, ?_, ?_, ?_, ?_, ?_, nofun⟩
  case refine_1 | refine_2 => exact fun w h => ⟨_, rfl, rfl, encodeU_of_match (h.trans (by decide))⟩
  case refine_9 | refine_10 | refine_11 =>
    exact fun w h => ⟨_, rfl, rfl, encodeShift_of_match (h.trans (by decide))⟩
  all_goals exact fun w h => ⟨_, rfl, rfl, encodeI_of_match (h.trans (by decide))⟩

theorem registerRows_selectTheirWord : ∀ r ∈ registerRows, SelectsItsWord r.entry := by
  simp only [registerRows, List.forall_mem_cons]
  refine ⟨?_, ?_, ?_, ?_, ?_, ?_, ?_, ?_, ?_, ?_, nofun⟩
  all_goals exact fun w h => ⟨_, rfl, rfl, encodeR_of_match (h.trans (by decide))⟩

theorem controlRows_selectTheirWord : ∀ r ∈ controlRows, SelectsItsWord r.entry := by
  simp only [controlRows, List.forall_mem_cons]
  refine ⟨fun w h => ⟨_, rfl, evenOffset_immJField w, encodeJ_of_match (h.trans (by decide))⟩,
    fun w h => ⟨_, rfl, rfl, encodeI_of_match (h.trans (by decide))⟩, ?_, ?_, ?_, ?_, ?_, ?_, nofun⟩
  all_goals exact fun w h => ⟨_, rfl, evenOffset_immBField w, encodeB_of_match (h.trans (by decide))⟩

theorem memoryRows_selectTheirWord : ∀ r ∈ memoryRows, SelectsItsWord r.entry := by
  simp only [memoryRows, List.forall_mem_cons]
  refine ⟨?_, ?_, ?_, ?_, ?_, ?_, ?_, ?_, nofun⟩
  case refine_6 | refine_7 | refine_8 =>
    exact fun w h => ⟨_, rfl, rfl, encodeS_of_match (h.trans (by decide))⟩
  all_goals exact fun w h => ⟨_, rfl, rfl, encodeI_of_match (h.trans (by decide))⟩

theorem mulDivRows_selectTheirWord : ∀ r ∈ mulDivRows, SelectsItsWord r.entry := by
  simp only [mulDivRows, List.forall_mem_cons]
  refine ⟨?_, ?_, ?_, ?_, ?_, ?_, ?_, ?_, nofun⟩
  all_goals exact fun w h => ⟨_, rfl, rfl, encodeR_of_match (h.trans (by decide))⟩

theorem ebreakRow_selectsItsWord : SelectsItsWord ebreakRow.entry := by
  intro w h
  have hw : w = 0x00100073#32 := BitVec.and_allOnes.symm.trans h
  exact ⟨.ebreak, rfl, rfl, hw.symm⟩

theorem realEntries_selectTheirWord : ∀ e ∈ realEntries, SelectsItsWord e := by
  simp only [realEntries, realRows, List.map_append, List.forall_mem_append, List.forall_mem_map,
    List.forall_mem_singleton]
  exact ⟨⟨⟨⟨⟨immediateRows_selectTheirWord, registerRows_selectTheirWord⟩, controlRows_selectTheirWord⟩,
    memoryRows_selectTheirWord⟩, mulDivRows_selectTheirWord⟩, ebreakRow_selectsItsWord⟩

theorem decodeWord_of_select {w : Word} {i : Instr}
    (h : ∃ e, e ∈ realEntries ∧ w &&& e.mask = e.value ∧ e.select w = .instr i) : decodeWord w = i := by
  obtain ⟨e, he, hm, hs⟩ := h
  obtain ⟨k, hk⟩ := List.mem_iff_getElem?.mp he
  exact decodeWord_of_row k hk hm hs

/-- Settles O2: a word that matches an entry is rebuilt from the fields the entry selects; any other is reserved, and is
the word of its `inv`. -/
theorem encodeOfDecodeIsTheWord : Obligations.EncodeOfDecodeIsTheWord := by
  intro w
  by_cases hmatch : ∃ e ∈ realEntries, w &&& e.mask = e.value
  · obtain ⟨e, he, hm⟩ := hmatch
    obtain ⟨i, hs, hwf, henc⟩ := realEntries_selectTheirWord e he w hm
    rw [decodeWord_of_select ⟨e, he, hm, hs⟩]
    exact ⟨hwf, henc⟩
  · have hnone : ∀ e ∈ realEntries, w &&& e.mask ≠ e.value := fun e he hm => hmatch ⟨e, he, hm⟩
    rw [decodeWord_of_none hnone]
    exact ⟨(isReserved_iff w).mpr hnone, rfl⟩

/-- Settles O3: both sides hold of the words that match none of entries 1 to 46. -/
theorem catchAllWordsAreTheReservedOnes : Obligations.CatchAllWordsAreTheReservedOnes := by
  refine fun w => ⟨⟨?_, fun h => ⟨w, decodeWord_of_none ((isReserved_iff w).mp h)⟩⟩, (isReserved_iff w).symm⟩
  rintro ⟨v, hv⟩
  obtain ⟨hwf, henc⟩ := encodeOfDecodeIsTheWord w
  rw [hv] at hwf henc
  obtain rfl : v = w := henc
  exact hwf

/-! ## Decoding an encoding -/

theorem encodeSelects : ∀ i, EncodeSelects.Statement i
  | .lui _ _ => EncodeSelects.lui _ _
  | .auipc _ _ => EncodeSelects.auipc _ _
  | .addi _ _ _ => EncodeSelects.addi _ _ _
  | .slti _ _ _ => EncodeSelects.slti _ _ _
  | .sltiu _ _ _ => EncodeSelects.sltiu _ _ _
  | .xori _ _ _ => EncodeSelects.xori _ _ _
  | .ori _ _ _ => EncodeSelects.ori _ _ _
  | .andi _ _ _ => EncodeSelects.andi _ _ _
  | .slli _ _ _ => EncodeSelects.slli _ _ _
  | .srli _ _ _ => EncodeSelects.srli _ _ _
  | .srai _ _ _ => EncodeSelects.srai _ _ _
  | .add _ _ _ => EncodeSelects.add _ _ _
  | .sub _ _ _ => EncodeSelects.sub _ _ _
  | .sll _ _ _ => EncodeSelects.sll _ _ _
  | .slt _ _ _ => EncodeSelects.slt _ _ _
  | .sltu _ _ _ => EncodeSelects.sltu _ _ _
  | .xor _ _ _ => EncodeSelects.xor _ _ _
  | .srl _ _ _ => EncodeSelects.srl _ _ _
  | .sra _ _ _ => EncodeSelects.sra _ _ _
  | .or _ _ _ => EncodeSelects.or _ _ _
  | .and _ _ _ => EncodeSelects.and _ _ _
  | .jal _ _ => EncodeSelects.jal _ _
  | .jalr _ _ _ => EncodeSelects.jalr _ _ _
  | .beq _ _ _ => EncodeSelects.beq _ _ _
  | .bne _ _ _ => EncodeSelects.bne _ _ _
  | .blt _ _ _ => EncodeSelects.blt _ _ _
  | .bge _ _ _ => EncodeSelects.bge _ _ _
  | .bltu _ _ _ => EncodeSelects.bltu _ _ _
  | .bgeu _ _ _ => EncodeSelects.bgeu _ _ _
  | .lb _ _ _ => EncodeSelects.lb _ _ _
  | .lh _ _ _ => EncodeSelects.lh _ _ _
  | .lw _ _ _ => EncodeSelects.lw _ _ _
  | .lbu _ _ _ => EncodeSelects.lbu _ _ _
  | .lhu _ _ _ => EncodeSelects.lhu _ _ _
  | .sb _ _ _ => EncodeSelects.sb _ _ _
  | .sh _ _ _ => EncodeSelects.sh _ _ _
  | .sw _ _ _ => EncodeSelects.sw _ _ _
  | .mul _ _ _ => EncodeSelects.mul _ _ _
  | .mulh _ _ _ => EncodeSelects.mulh _ _ _
  | .mulhsu _ _ _ => EncodeSelects.mulhsu _ _ _
  | .mulhu _ _ _ => EncodeSelects.mulhu _ _ _
  | .div _ _ _ => EncodeSelects.div _ _ _
  | .divu _ _ _ => EncodeSelects.divu _ _ _
  | .rem _ _ _ => EncodeSelects.rem _ _ _
  | .remu _ _ _ => EncodeSelects.remu _ _ _
  | .ebreak => EncodeSelects.ebreak
  | .inv _ => EncodeSelects.inv _

theorem decodeWord_encode {i : Instr} (h : wellFormed i = true) : decodeWord (encode i) = i := by
  have hselects := encodeSelects i h
  cases i
  case inv word => exact decodeWord_of_none ((isReserved_iff word).mp hselects)
  all_goals exact decodeWord_of_select hselects

theorem wordOfBytes_bytes (w : Word) :
    wordOfBytes (w.extractLsb' 0 8) (w.extractLsb' 8 8) (w.extractLsb' 16 8) (w.extractLsb' 24 8) = w := by
  apply BitVec.eq_of_getLsbD_eq
  intro k hk
  have h : BitVec.getLsbD (w := 8 + 8 + 8 + 8)
      (w.extractLsb' 24 8 ++ w.extractLsb' 16 8 ++ w.extractLsb' 8 8 ++ w.extractLsb' 0 8) k = w.getLsbD k := by
    simp only [BitVec.getLsbD_append, BitVec.getLsbD_extractLsb']
    grind
  exact h

theorem decodeBytes_bytesOfWord (w : Word) (rest : List Byte) :
    decodeBytes (bytesOfWord w ++ rest) = .ok (decodeWord w, rest) := by
  simp only [bytesOfWord, List.cons_append, List.nil_append, decodeBytes, wordOfBytes_bytes]

theorem decodeTableWord_toNat (w : Word) : decodeTableWord 32 w.toNat = some (decodeWord w) := by
  rw [decodeTableWord, Nat.mod_eq_of_lt w.isLt, BitVec.ofNat_toNat, BitVec.setWidth_eq,
    ← List.append_nil (bytesOfWord w), decodeBytes_bytesOfWord]

/-- Settles O1: the four bytes of an encoding are its word, and the word selects the instruction's own row. -/
theorem decodeOfEncodeIsTheInstruction : Obligations.DecodeOfEncodeIsTheInstruction := by
  intro i rest h
  rw [decodeBytes_bytesOfWord, decodeTableWord_toNat, decodeWord_encode h]
  exact ⟨rfl, rfl⟩

/-! ## Closed facts about the default table -/

/-- Settles O8: both lists are closed, and are computed. -/
theorem tableIsDerivedFromItsTemplates : Obligations.TableIsDerivedFromItsTemplates := by
  unfold Obligations.TableIsDerivedFromItsTemplates
  decide

/-- Settles O9: each word is closed, and is decoded. -/
theorem sampleWordsDecode : Obligations.SampleWordsDecode := by
  unfold Obligations.SampleWordsDecode
  decide

end Sys2Proof.Machine
end

section
/-! SUPPORT. What one transition does, said once (60_exceptions.md R180, R182), and the obligations that follow from it:
totality, the constant parameters, the invariant of the pool and memory, and that the program cannot observe the debug
unit. -/

namespace Sys2Proof.Machine

/-! ## The outcome of a step -/

/-- The five ways a transition goes: the next state of each. -/
inductive StepOutcome (s t : State) : Prop where
  | done (running : s.runState = .running) (left : s.progress.left = some 0)
      (result : t = endRun [] (s.clearOutputs.setRunState .stopped))
  | fetchFault (runnable : RunnableState s) (refused : s.admitsAccess s.pc .four = false)
      (result : t = endRun [] ((countStep (fetched s.clearOutputs)).enterFatal .memFault))
  | executed (u : State) (runnable : RunnableState s) (fetch : s.fetchWord = some (Memory.read s.mem s.pc .four))
      (action : runSelected (dispatchWord s.cfg.table (Memory.read s.mem s.pc .four)) (fetched s.clearOutputs) = .next u)
      (frame : ExecFrame (fetched s.clearOutputs) u) (result : t = afterInstruction u)
  | idle (between : s.runState ≠ .running) (none : s.inputs = []) (result : t = s.clearOutputs)
  | input (between : s.runState ≠ .running) (i : Input) (rest : List Input) (next : s.inputs = i :: rest)
      (result : t = applyInput (taken s rest) i)

theorem step_next (s : State) : ∃ t, step s = .next t ∧ StepOutcome s t := by
  by_cases hr : s.runState = .running
  · by_cases hl : s.progress.left = some 0
    · exact ⟨_, step_running_done hr hl, .done hr hl rfl⟩
    · rcases step_running hr hl with ⟨hrefused, hstep⟩ | ⟨u, hfetch, haction, hframe, hstep⟩
      · exact ⟨_, hstep, .fetchFault ⟨hr, hl⟩ hrefused rfl⟩
      · exact ⟨_, hstep, .executed u ⟨hr, hl⟩ hfetch haction hframe rfl⟩
  · cases hi : s.inputs with
    | nil => exact ⟨_, step_idle hr hi, .idle hr hi rfl⟩
    | cons i rest => exact ⟨_, step_input hr hi, .input hr i rest hi rfl⟩

theorem stepOutcome_of_step {s t : State} (h : step s = .next t) : StepOutcome s t := by
  obtain ⟨t', ht', houtcome⟩ := step_next s
  cases h.symm.trans ht'
  exact houtcome

/-- Settles O14: each of the five ways is a next state. -/
theorem everyTransitionHasANextState : Obligations.EveryTransitionHasANextState := fun s => by
  obtain ⟨t, ht, -⟩ := step_next s
  exact ⟨t, ht⟩

/-! ## The outcome of an input -/

/-- What every input keeps that writes neither the pool nor memory nor the program's state: all but the control state. -/
structure ControlOnly (s t : State) : Prop where
  regs : t.regs = s.regs
  pc : t.pc = s.pc
  mem : t.mem = s.mem
  slots : t.slots = s.slots
  freeList : t.freeList = s.freeList
  activeList : t.activeList = s.activeList
  cfg : t.cfg = s.cfg
  running : t.runState = .running → t.progress.left ≠ some 0

/-- A `wp_set` that takes slot `h`: the text has the value `v`, and `h` moves from the free to the active list (R191). -/
structure TakesSlot (s : State) (text : Text) (v : Word) (h : SlotIdx) (t : State) : Prop where
  value : (exprValue s text).2 = .ok v
  fits : exceeds text.length s.cfg.maxExprLen = false
  free : s.freeList = h :: t.freeList
  active : t.activeList = h :: s.activeList
  slot : ∀ k, t.slot k = if k = h then { expr := text, last := v } else s.slot k
  mem : t.mem = s.mem
  cfg : t.cfg = s.cfg
  runState : t.runState = s.runState

/-- What an input taken between runs can do. -/
inductive InputOutcome (s t : State) : Prop where
  | control (frame : ControlOnly s t)
  | memoryWrite (addr : Word) (value : Byte) (result : t = { s with mem := Memory.setByte s.mem addr value })
  | reset (result : t = (resetCommand s).respond .accepted)
  | take (text : Text) (v : Word) (h : SlotIdx) (taken : TakesSlot s text v h t)
  | release (h : SlotIdx) (active : h ∈ s.activeList) (result : t = (release s h).respond .accepted)

section
variable {s : State} (between : s.runState ≠ .running)
include between

theorem controlOnly_respond (r : Response) : ControlOnly s (s.respond r) := by
  constructor
  case running => exact fun hr => absurd hr between
  all_goals rfl

theorem wpSet_outcome (text : Text) : InputOutcome s (wpSet s text) := by
  cases wpSet_cases s text with
  | syntaxError _ _ _ result | capacity _ _ result | tooLong _ _ _ _ result =>
    rw [result]
    refine .control ?_
    constructor
    case running => exact fun hr => absurd hr between
    all_goals rfl
  | fatal _ _ _ result | exhausted _ _ _ _ _ result =>
    rw [result]
    refine .control ?_
    constructor
    case running => exact nofun
    all_goals rfl
  | taken calls v h rest value fits free result =>
    rw [result]
    refine .take text v h ⟨congrArg Prod.snd value, fits, free, rfl, fun k => ?_, rfl, rfl, rfl⟩
    exact State.slot_setSlot _ h k _

theorem wpDelete_outcome (id : Int) : InputOutcome s (wpDelete s id) := by
  unfold wpDelete
  split
  case h_1 h hslot => exact .release h (activeSlot_eq_some hslot).1 rfl
  case h_2 => exact .control (controlOnly_respond between _)

/-- R182 (c): a run that enters RUNNING has no bound or at least one step. -/
theorem runCommand_controlOnly (steps : Int) : ControlOnly s (runCommand s steps) := by
  unfold runCommand
  split
  · exact controlOnly_respond between _
  split
  · exact controlOnly_respond between _
  split
  · constructor
    case running => exact nofun
    all_goals rfl
  · rename_i haccepted _ hsteps
    constructor
    case running =>
      intro _
      simp only
      split
      · exact nofun
      · rw [ne_eq, Option.some.injEq]
        omega
    all_goals rfl

theorem haltRequest_controlOnly (code : Word) : ControlOnly s (haltRequest s code) := by
  unfold haltRequest
  split
  · constructor
    case running => exact nofun
    all_goals rfl
  · exact controlOnly_respond between _

theorem quitCommand_controlOnly : ControlOnly s (quitCommand s) := by
  unfold quitCommand
  split
  · exact controlOnly_respond between _
  · constructor
    case running => exact nofun
    all_goals rfl

theorem applyCommand_outcome (c : Command) : InputOutcome s (applyCommand s c) := by
  cases c with
  | reset =>
    rw [applyCommand]
    exact .reset rfl
  | run steps => exact .control (runCommand_controlOnly between steps)
  | haltReq code => exact .control (haltRequest_controlOnly between code)
  | wpSet text =>
    rw [applyCommand]
    split
    · exact .control (controlOnly_respond between _)
    · exact wpSet_outcome between text
  | wpDelete id =>
    rw [applyCommand]
    split
    · exact .control (controlOnly_respond between _)
    · exact wpDelete_outcome between id
  | quit => exact .control (quitCommand_controlOnly between)
  | query q => exact .control (controlOnly_respond between _)

theorem applyInput_outcome (i : Input) : InputOutcome s (applyInput s i) := by
  cases i with
  | command c => exact applyCommand_outcome between c
  | memoryWrite addr value =>
    rw [applyInput]
    split
    · exact .memoryWrite addr value rfl
    · refine .control ?_
      constructor
      case running => exact fun hr => absurd hr between
      all_goals rfl

end

/-! ## The parameters -/

theorem InputOutcome.cfg {s t : State} (h : InputOutcome s t) : t.cfg = s.cfg := by
  cases h with
  | control frame => exact frame.cfg
  | memoryWrite _ _ result => rw [result]
  | reset result => rw [result, State.respond_cfg, resetCommand_cfg]
  | take _ _ _ taken => exact taken.cfg
  | release _ _ result => rw [result]; rfl

/-- Settles O17: neither a round of a run nor an input writes the field `cfg`. -/
theorem parametersNeverChange : Obligations.ParametersNeverChange := by
  intro s t h
  cases stepOutcome_of_step h with
  | done _ _ result => rw [result]; rfl
  | fetchFault _ _ result => rw [result]; rfl
  | executed u _ _ _ frame result =>
    rw [result]
    exact (afterInstruction_frame u).cfg.trans frame.cfg
  | idle _ _ result => rw [result]; rfl
  | input between i rest _ result =>
    rw [result]
    exact (applyInput_outcome (s := taken s rest) between i).cfg

/-! ## The invariant -/

/-- The invariant reads of a state only memory, the two lists, the texts of the slots, the parameters and the run. -/
theorem Inv.of_frame {s t : State} (hinv : Inv s) (mem : Memory.wf t.mem) (free : t.freeList = s.freeList)
    (active : t.activeList = s.activeList) (cfg : t.cfg = s.cfg) (exprs : ∀ k, (t.slot k).expr = (s.slot k).expr)
    (running : t.runState = .running → t.progress.left ≠ some 0) : Inv t := by
  obtain ⟨-, hpool, hfree, hactive, -⟩ := hinv
  refine ⟨mem, ?_, fun k hk => ?_, fun k hk => ?_, running⟩
  · unfold PoolPartition
    rwa [free, active]
  · rw [exprs]
    exact hfree k (free ▸ hk)
  · rw [exprs, cfg]
    exact hactive k (active ▸ hk)

theorem Inv.respond {s : State} (hinv : Inv s) (r : Response) : Inv (s.respond r) :=
  hinv.of_frame hinv.memory (State.respond_freeList s r) (State.respond_activeList s r) (State.respond_cfg s r)
    (fun k => by rw [State.respond_slot]) hinv.running

theorem inv_resetWith (cfg : Config) (u : Unspecified) {mem : Memory} (hmem : Memory.wf mem) (inputs : List Input)
    (fresh : Nat) : Inv (State.resetWith cfg u mem inputs fresh) where
  memory := hmem
  pool := by
    unfold PoolPartition State.resetWith
    rw [List.append_nil]
  freeClear := fun k _ => by
    unfold State.slot State.resetWith
    rw [Vector.getElem_ofFn]
  activeTexts := fun _ hk => nomatch hk
  running := nofun

/-- Settles O16: the state after reset is a state of the table of R26, over an empty memory. -/
theorem poolAndMemoryAreConsistentAtReset : Obligations.PoolAndMemoryAreConsistentAtReset :=
  inv_resetWith _ _ ⟨.nil, nofun⟩ _ _

section
variable {s t : State} (hinv : Inv s) (between : s.runState ≠ .running)
include hinv between

/-- A `wp_set` that takes a slot: the slots left in the free list keep their empty texts, and the text of the taken one
has a value, so it tokenizes (R191). -/
theorem TakesSlot.inv {text : Text} {v : Word} {h : SlotIdx} (htake : TakesSlot s text v h t) : Inv t := by
  obtain ⟨value, fits, free, active, slot, mem, cfg, runState⟩ := htake
  obtain ⟨hmem, hpool, hfree, hactive, -⟩ := hinv
  have hnodup := hpool.nodup
  unfold PoolPartition at hpool
  rw [free] at hpool hnodup
  obtain ⟨hhead, -⟩ := List.nodup_cons.mp hnodup
  refine ⟨mem ▸ hmem, ?_, fun k hk => ?_, fun k hk => ?_, fun hr => absurd (runState.symm.trans hr) between⟩
  · unfold PoolPartition
    rw [active]
    exact List.perm_middle.trans hpool
  · have hne : k ≠ h := fun e => hhead (List.mem_append_left _ (e ▸ hk))
    rw [slot, if_neg hne]
    exact hfree k (by rw [free]; exact List.mem_cons_of_mem h hk)
  · rw [slot, cfg]
    by_cases hkh : k = h
    · rw [if_pos hkh]
      obtain ⟨tokens, htok, hne, hcount⟩ := tokens_of_exprValue value
      exact ⟨tokens, htok, hne, hcount, fits⟩
    · rw [if_neg hkh]
      rw [active] at hk
      exact hactive k ((List.mem_cons.mp hk).resolve_left hkh)

/-- R194: the released slot moves to the free list with an empty text. -/
theorem inv_release {h : SlotIdx} (hmem : h ∈ s.activeList) : Inv (release s h) := by
  obtain ⟨hwf, hpool, hfree, hactive, -⟩ := hinv
  have hnodup : s.activeList.Nodup := (List.nodup_append.mp hpool.nodup).2.1
  have hslot : ∀ k, (release s h).slot k = if k = h then { expr := [], last := Config.freeWord s.fresh } else s.slot k :=
    fun k => State.slot_setSlot s h k _
  refine ⟨hwf, ?_, fun k hk => ?_, fun k hk => ?_, fun hr => absurd hr between⟩
  · exact (List.perm_middle.symm.trans ((List.perm_cons_erase hmem).symm.append_left _)).trans hpool
  · rw [hslot]
    by_cases hkh : k = h
    · rw [if_pos hkh]
    · rw [if_neg hkh]
      exact hfree k ((List.mem_cons.mp hk).resolve_left hkh)
  · obtain ⟨hkh, hk'⟩ := hnodup.mem_erase_iff.mp hk
    rw [hslot, if_neg hkh]
    exact hactive k hk'

theorem InputOutcome.inv (h : InputOutcome s t) : Inv t := by
  cases h with
  | control frame =>
    exact hinv.of_frame (frame.mem ▸ hinv.memory) frame.freeList frame.activeList frame.cfg
      (fun k => by rw [State.slot_congr frame.slots]) frame.running
  | memoryWrite addr value result =>
    rw [result]
    exact hinv.of_frame (Memory.wf_setByte hinv.memory addr value) rfl rfl rfl (fun _ => rfl)
      (fun hr => absurd hr between)
  | reset result =>
    rw [result]
    exact (inv_resetWith _ _ hinv.memory _ _ : Inv (resetCommand s)).respond _
  | take text v h taken => exact taken.inv hinv between
  | release h active result =>
    rw [result]
    exact (inv_release hinv between active).respond _

end

/-- Settles O15: an instruction and the end of its round keep the pool and the form of memory, and an input moves a slot
from one list to the other or keeps the pool. -/
theorem poolAndMemoryStayConsistent : Obligations.PoolAndMemoryStayConsistent := by
  intro s t hinv h
  cases stepOutcome_of_step h with
  | done _ _ result =>
    rw [result]
    exact hinv.of_frame hinv.memory rfl rfl rfl (fun _ => rfl) nofun
  | fetchFault _ _ result =>
    rw [result]
    exact hinv.of_frame hinv.memory rfl rfl rfl (fun _ => rfl) nofun
  | executed u _ _ _ frame result =>
    rw [result]
    have hround := afterInstruction_frame u
    refine hinv.of_frame (hround.mem ▸ frame.memory hinv.memory) (hround.freeList.trans frame.freeList)
      (hround.activeList.trans frame.activeList) (hround.cfg.trans frame.cfg) (fun k => ?_) (afterInstruction_running u)
    rw [hround.exprs, State.slot_congr frame.slots]
    rfl
  | idle between _ result =>
    rw [result]
    exact hinv.of_frame hinv.memory rfl rfl rfl (fun _ => rfl) hinv.running
  | input between i rest _ result =>
    rw [result]
    have htaken : Inv (taken s rest) := hinv.of_frame hinv.memory rfl rfl rfl (fun _ => rfl) hinv.running
    exact (applyInput_outcome (s := taken s rest) between i).inv htaken between

/-! ## The program and the debug unit -/

theorem SameProgramState.symm {s t : State} (h : SameProgramState s t) : SameProgramState t s :=
  ⟨h.1.symm, h.2.1.symm, h.2.2.1.symm, h.2.2.2.symm⟩

theorem SameProgramState.trans {s t u : State} (h : SameProgramState s t) (h' : SameProgramState t u) :
    SameProgramState s u :=
  ⟨h.1.trans h'.1, h.2.1.trans h'.2.1, h.2.2.1.trans h'.2.2.1, h.2.2.2.trans h'.2.2.2⟩

theorem afterInstruction_sameProgram (u : State) : SameProgramState u (afterInstruction u) :=
  have h := afterInstruction_frame u
  ⟨h.regs.symm, h.pc.symm, h.mem.symm, h.cfg.symm⟩

theorem fetchWord_eq_some {s : State} {w : Word} (h : s.fetchWord = some w) :
    s.admitsAccess s.pc .four = true ∧ w = Memory.read s.mem s.pc .four := by
  unfold State.fetchWord State.memRead at h
  split at h
  · exact ⟨by assumption, (Option.some.inj h).symm⟩
  · cases h

/-- Settles O50: the fetch, the selection and the action depend on the program's state only, and the end of a round
leaves that state as the action left it. -/
theorem programCannotObserveTheDebugUnit : Obligations.ProgramCannotObserveTheDebugUnit := by
  intro s s' t t' hsame ⟨hr, hl⟩ ⟨hr', hl'⟩ h h'
  have hfetched : SameProgramState (fetched s.clearOutputs) (fetched s'.clearOutputs) := hsame
  have hadmit := hsame.admitsAccess s.pc .four
  obtain ⟨-, hpc, hmem, hcfg⟩ := hsame
  rw [hpc] at hadmit
  rcases step_running hr hl with ⟨hrefused, e⟩ | ⟨u, hfetch, hu, -, e⟩ <;>
    rcases step_running hr' hl' with ⟨hrefused', e'⟩ | ⟨u', hfetch', hu', -, e'⟩
  all_goals cases e.symm.trans h
  all_goals cases e'.symm.trans h'
  case inl.inl => exact hfetched
  case inl.inr =>
    rw [hpc, hadmit, (fetchWord_eq_some hfetch').1] at hrefused
    cases hrefused
  case inr.inl =>
    rw [← hadmit, ← hpc, (fetchWord_eq_some hfetch).1] at hrefused'
    cases hrefused'
  case inr.inr =>
    rw [hpc, hmem, hcfg] at hu
    obtain ⟨v, v', hv, hv', hactions⟩ := runSelected_same hfetched
      (dispatchWord s'.cfg.table (Memory.read s'.mem s'.pc .four))
    cases hu.symm.trans hv
    cases hu'.symm.trans hv'
    exact (afterInstruction_sameProgram u).symm.trans (hactions.trans (afterInstruction_sameProgram u'))

end Sys2Proof.Machine
end

section
/-! SUPPORT. Memory faults, byte order and fetch coherence (20_memory.md R31 to R33, R38, R42), and the laws of multiply
and divide (45_muldiv.md R130), with the obligations on them. -/

namespace Sys2Proof.Machine

/-! ## Accesses outside the admitted set (R38) -/

/-- R38: an action that only makes a call and raises the memory fault writes nothing. -/
theorem completesFaulting_of_takeRaise {i : Instr} {s : State} {c : PortCall}
    (h : exec i s = .next (takeRaise (s.logCall c) (.fatal .memFault))) : CompletesFaulting i s c :=
  ⟨_, h, rfl, rfl, rfl, rfl, rfl, rfl, fun _ => rfl, fun _ => rfl, by constructor <;> rfl⟩

section
variable {i : Instr} {w : Width} {ext : Word → Word} {o : Operands} {s : State}

theorem completesFaulting_of_loadFrom (h : exec i s = loadFrom w ext o s) (hrefuse : s.admitsAccess o.address w = false) :
    CompletesFaulting i s (.read o.address w) := by
  obtain ⟨-, hfault⟩ := (loadFrom_cases w ext o s).resolve_left (by simp [hrefuse])
  exact completesFaulting_of_takeRaise (h.trans hfault)

theorem completesFaulting_of_storeTo (h : exec i s = storeTo w o s) (hrefuse : s.admitsAccess o.address w = false) :
    CompletesFaulting i s (.write o.address w (w.truncate o.src2)) := by
  obtain ⟨-, hfault⟩ := (storeTo_cases w o s).resolve_left (by simp [hrefuse])
  exact completesFaulting_of_takeRaise (h.trans hfault)

end

/-- Settles O13: a fetch that faults ends the round before any match, and each load and store that faults only raises
the memory fault after its call. -/
theorem accessesOutsideTheAdmittedSetAreFatal : Obligations.AccessesOutsideTheAdmittedSetAreFatal := by
  refine ⟨fun s ⟨hr, hl⟩ hrefused => ?_, fun rd rs1 rs2 imm s => ?_⟩
  · rcases step_running hr hl with ⟨-, hstep⟩ | ⟨u, hfetch, -⟩
    · exact ⟨_, hstep, rfl, rfl, rfl, fun _ => rfl, fun _ => rfl, rfl, rfl, rfl⟩
    · rw [(fetchWord_eq_some hfetch).1] at hrefused
      cases hrefused
  · rw [and_ff_eq_truncate, and_ffff_eq_truncate]
    exact ⟨fun h => ⟨completesFaulting_of_loadFrom rfl h, completesFaulting_of_loadFrom rfl h⟩,
      fun h => ⟨completesFaulting_of_loadFrom rfl h, completesFaulting_of_loadFrom rfl h⟩,
      completesFaulting_of_loadFrom rfl, completesFaulting_of_storeTo rfl, completesFaulting_of_storeTo rfl,
      completesFaulting_of_storeTo rfl⟩

/-! ## Byte order (R33) and fetch coherence (R42) -/

theorem Memory.read_write_four {m : Memory} (hm : Memory.wf m) (a v : Word) :
    Memory.read (Memory.write m a v .four) a .four = v := by
  obtain ⟨h0, h1, h2, h3⟩ := Memory.byte_write_four hm a v
  rw [Memory.read, h0, h1, h2, h3]
  exact wordOfBytes_bytes v

/-- Settles O30: a write puts the bytes of its value at the addresses of the access, and a read joins the bytes there. -/
theorem memoryIsLittleEndian : Obligations.MemoryIsLittleEndian := by
  intro m a v x hm
  refine ⟨fun w => ⟨Memory.wf_write hm a v w, fun _ _ hk => Memory.byte_write_of_getElem? hm v hk,
    Memory.byte_write_other hm a v w x⟩, Memory.read_one_eq_ofNat m a, ?_, ?_, ?_⟩
  · rw [Memory.read_two_eq_ofNat]
    congr 1
    omega
  · rw [Memory.read_four_eq_ofNat]
    congr 1
    omega
  · obtain ⟨h0, h1, h2, h3⟩ := Memory.byte_write_four hm a 0xdeadbeef#32
    have h3' : a + 2#32 + 1#32 = a + 3#32 := BitVec.add_assoc a 2#32 1#32
    simp only [Memory.read, h0, h1, h2, h3, h3']
    decide

/-- Settles O31: the access is the fetch's, four bytes at the same address, and nothing is written after the store. -/
theorem storedWordIsWhatTheNextFetchGives : Obligations.StoredWordIsWhatTheNextFetchGives := by
  intro rs1 rs2 imm s hm hadmit
  obtain ⟨-, hstore⟩ := (storeTo_cases .four (operandsS rs1 rs2 imm s) s).resolve_right (by simp [hadmit])
  refine ⟨_, hstore, ?_⟩
  have hfetch : ∀ t : State, t.cfg = s.cfg → t.pc = (operandsS rs1 rs2 imm s).address →
      t.mem = Memory.write s.mem (operandsS rs1 rs2 imm s).address (s.readReg rs2) .four →
      t.fetchWord = some (s.readReg rs2) := by
    intro t hcfg hpc hmem
    unfold State.fetchWord State.memRead State.admitsAccess
    rw [hcfg, hpc, hmem, Memory.read_write_four hm]
    exact if_pos hadmit
  exact ⟨hfetch _ rfl rfl rfl, fun hnext => hfetch _ rfl hnext.symm rfl⟩

/-! ## The laws of multiply and divide (R130) -/

/-- The two words of a doubleword product. -/
theorem upper_append_lower (x : Int) :
    ((BitVec.ofInt 64 x).extractLsb' 32 32 ++ BitVec.ofInt 32 x : BitVec (32 + 32)) = BitVec.ofInt 64 x := by
  have hlow : BitVec.ofInt 32 x = (BitVec.ofInt 64 x).extractLsb' 0 32 := by
    apply BitVec.eq_of_toNat_eq
    rw [BitVec.extractLsb'_toNat, BitVec.toNat_ofInt, BitVec.toNat_ofInt]
    omega
  rw [hlow]
  exact BitVec.extractLsb'_append_extractLsb' (w := 32) (len := 32)

theorem mulLow_eq_ofInt_signedUnsigned (a b : Word) : mulLow a b = BitVec.ofInt 32 (a.toInt * (b.toNat : Int)) := by
  rw [mulLow_eq_ofInt, BitVec.ofInt_mul, BitVec.ofInt_mul, BitVec.ofInt_toInt, BitVec.ofInt_toInt, BitVec.ofInt_natCast,
    BitVec.ofNat_toNat, BitVec.setWidth_eq]

theorem mulLow_eq_ofNat (a b : Word) : mulLow a b = BitVec.ofInt 32 ((a.toNat * b.toNat : Nat) : Int) := by
  rw [BitVec.ofInt_natCast, mulLow, ← BitVec.setWidth_eq_extractLsb' (by decide), BitVec.setWidth_ofNat_of_le (by decide)]

theorem toInt_bounds (a : Word) : -2 ^ 31 ≤ a.toInt ∧ a.toInt < 2 ^ 31 := ⟨BitVec.le_toInt a, BitVec.toInt_lt⟩

theorem divSigned_eq_sdiv {a b : Word} (hb : b ≠ 0#32) (ho : ¬(a = 0x80000000#32 ∧ b = 0xffffffff#32)) :
    divSigned a b = a.sdiv b := by
  have hcase : a ≠ BitVec.intMin 32 ∨ b ≠ -1#32 := not_and_or.mp ho
  rw [divSigned, if_neg hb, if_neg ho, ← BitVec.toInt_sdiv_of_ne_or_ne a b hcase, BitVec.ofInt_toInt]

theorem remSigned_eq_srem {a b : Word} (hb : b ≠ 0#32) (ho : ¬(a = 0x80000000#32 ∧ b = 0xffffffff#32)) :
    remSigned a b = a.srem b := by
  rw [remSigned, if_neg hb, if_neg ho, ← Int.tmod_def, ← BitVec.toInt_srem, BitVec.ofInt_toInt]

theorem divUnsigned_eq_udiv {a b : Word} (hb : b ≠ 0#32) : divUnsigned a b = a / b := by
  rw [divUnsigned, if_neg hb, ← BitVec.toNat_udiv, BitVec.ofNat_toNat, BitVec.setWidth_eq]

theorem remUnsigned_eq_umod {a b : Word} (hb : b ≠ 0#32) : remUnsigned a b = a % b := by
  rw [remUnsigned, if_neg hb, ← BitVec.toNat_umod, BitVec.ofNat_toNat, BitVec.setWidth_eq]

/-- A product of two factors of at most `2^31` and `2^32` in size, one of them below its bound, fits 64 signed bits. -/
theorem toInt_ofInt_product {x y : Int} (hx : -2 ^ 31 ≤ x ∧ x < 2 ^ 31) (hy : -2 ^ 31 ≤ y ∧ y < 2 ^ 32) :
    (BitVec.ofInt 64 (x * y)).toInt = x * y := by
  obtain ⟨hx1, hx2⟩ := hx
  obtain ⟨hy1, hy2⟩ := hy
  exact BitVec.toInt_ofInt_eq_self (by decide) (by norm_num; nlinarith) (by norm_num; nlinarith)

theorem tmod_nonpos {a b : Int} (h : a ≤ 0) : a.tmod b ≤ 0 := by
  have hneg := Int.tmod_nonneg b (Int.neg_nonneg.mpr h)
  rw [Int.neg_tmod] at hneg
  omega

/-- Settles O34: the two words of a product are one doubleword, in which the exact product fits; the quotient and the
remainder are the library's, whose signed values are those of truncated division. -/
theorem multiplyAndDivideLaws : Obligations.MultiplyAndDivideLaws := by
  intro a b
  have ha := toInt_bounds a
  have hb := toInt_bounds b
  have hlt := a.isLt
  have hlt' := b.isLt
  refine ⟨?_, ?_, ?_, fun hb ho => ?_, fun hb => ?_, ?_, ?_, ?_, ?_, by decide, by decide⟩
  · rw [mulLow_eq_ofInt, mulHighSigned, upper_append_lower]
    exact toInt_ofInt_product ha ⟨hb.1, by omega⟩
  · rw [mulLow_eq_ofInt_signedUnsigned, mulHighSignedUnsigned, upper_append_lower]
    exact toInt_ofInt_product ha (by omega)
  · rw [mulLow_eq_ofNat, mulHighUnsigned, ← BitVec.ofInt_natCast, upper_append_lower, BitVec.ofInt_natCast,
      BitVec.toNat_ofNat]
    exact Nat.mod_eq_of_lt (by rw [pow_add]; exact Nat.mul_lt_mul'' hlt hlt')
  · have hb' : b.toInt ≠ 0 := fun h => hb (BitVec.eq_of_toInt_eq h)
    rw [divSigned_eq_sdiv hb ho, remSigned_eq_srem hb ho, BitVec.toInt_srem,
      BitVec.toInt_sdiv_of_ne_or_ne a b (not_and_or.mp ho)]
    refine ⟨(Int.mul_tdiv_add_tmod _ _).symm, ?_, Int.tmod_nonneg _, tmod_nonpos⟩
    rw [Int.natAbs_tmod]
    exact Nat.mod_lt _ (by omega)
  · rw [divUnsigned_eq_udiv hb, remUnsigned_eq_umod hb, BitVec.toNat_udiv, BitVec.toNat_umod]
    refine ⟨(Nat.div_add_mod _ _).symm, Nat.mod_lt _ ?_⟩
    exact Nat.pos_of_ne_zero fun h => hb (BitVec.eq_of_toNat_eq h)
  · rfl
  · rfl
  · rfl
  · rfl

end Sys2Proof.Machine
end

section
/-! SUPPORT. The commands between runs and start-up (60_exceptions.md R181, R182, R186, R187; 70_reset_and_hazards.md
R220, R222), with the obligations on them. -/

namespace Sys2Proof.Machine

theorem step_of_given {s : State} {c : Command} {rest : List Input} (h : Given s c rest) :
    step s = .next (applyCommand (taken s rest) c) :=
  step_input h.1 h.2

theorem processGone_iff (r : RunState) : processGone r = true ↔ r = .quit ∨ r = .fatal := by
  cases r <;> decide

theorem terminal_of_trap {r : RunState} (h : r = .trappedOk ∨ r = .trappedBad ∨ r = .halted) :
    terminal r = true ∧ processGone r = false := by
  rcases h with rfl | rfl | rfl <;> decide

/-! ## `run`, `halt_req` and `quit` -/

theorem runCommand_refused {s : State} {steps : Int} (h : steps < -1 ∨ s.runState = .quit ∨ s.runState = .fatal) :
    runCommand s steps = s.respond .refused := by
  unfold runCommand
  rw [if_pos]
  rwa [processGone_iff, or_comm]

theorem runCommand_terminal {s : State} {steps : Int} (hsteps : -1 ≤ steps)
    (h : s.runState = .trappedOk ∨ s.runState = .trappedBad ∨ s.runState = .halted) :
    runCommand s steps = s.respond (.runEnded 0 []) := by
  obtain ⟨hterminal, hgone⟩ := terminal_of_trap h
  unfold runCommand
  rw [if_neg, if_pos hterminal]
  rw [hgone, Bool.false_eq_true, false_or]
  omega

theorem runCommand_stopped {s : State} {steps : Int} (hsteps : -1 ≤ steps) (h : s.runState = .stopped) :
    runCommand s steps = if steps = 0 then (s.setRunState .stopped).respond (.runEnded 0 [])
      else { s.setRunState .running with
        progress := { left := if steps = -1 then none else some steps.toNat, done := 0 } } := by
  unfold runCommand
  rw [if_neg, if_neg]
  · rw [h]; decide
  · rw [h, processGone_iff]
    rintro ((h | h) | h)
    · cases h
    · cases h
    · omega

/-- Settles O39: each clause is one branch of the entry of `run`. -/
theorem runCommandEntry : Obligations.RunCommandEntry := by
  intro s steps rest hgiven
  rw [step_of_given hgiven, applyCommand]
  refine ⟨fun h => ?_, fun hsteps h => ?_, fun h hsteps => ?_, fun h hsteps => ?_, fun h hsteps => ?_⟩
  · rw [runCommand_refused (s := taken s rest) h]
    rfl
  · rw [runCommand_terminal (s := taken s rest) hsteps h]
    rfl
  · rw [runCommand_stopped (s := taken s rest) (by omega) h, if_pos hsteps, ← h]
    rfl
  · rw [runCommand_stopped (s := taken s rest) (by omega) h, if_neg (by omega), if_pos hsteps]
    rfl
  · rw [runCommand_stopped (s := taken s rest) (by omega) h, if_neg (by omega), if_neg (by omega)]
    rfl

/-- Settles O37: the action is the halt raise, and the command tests for STOPPED. -/
theorem haltActionInBothForms : Obligations.HaltActionInBothForms := by
  refine ⟨fun s => ⟨_, rfl, rfl, rfl, rfl, rfl, fun _ => rfl, fun _ => rfl, by constructor <;> rfl⟩,
    fun s code rest hgiven => ?_⟩
  rw [step_of_given hgiven, applyCommand, haltRequest]
  by_cases h : s.runState = .stopped
  · rw [if_pos h, if_pos (show (taken s rest).runState = .stopped from h)]
    rfl
  · rw [if_neg h, if_neg (show ¬(taken s rest).runState = .stopped from h)]
    rfl

/-- R181: in QUIT and FATAL every command but `reset()` and the queries is refused. -/
theorem applyCommand_refused {s : State} {c : Command} (h : s.runState = .quit ∨ s.runState = .fatal)
    (hreset : c ≠ .reset) (hquery : ∀ q, c ≠ .query q) : applyCommand s c = s.respond .refused := by
  have hgone : processGone s.runState = true := (processGone_iff _).mpr h
  cases c with
  | reset => exact absurd rfl hreset
  | query q => exact absurd rfl (hquery q)
  | run steps => exact runCommand_refused (.inr h)
  | haltReq code =>
    have hne : s.runState ≠ .stopped := by rcases h with h | h <;> rw [h] <;> decide
    exact if_neg hne
  | wpSet text => exact if_pos hgone
  | wpDelete id => exact if_pos hgone
  | quit => exact if_pos hgone

/-- Settles O42: `quit` tests for the two states in which every command but `reset()` and the queries is refused. -/
theorem quitAndTheRefusalsAfterIt : Obligations.QuitAndTheRefusalsAfterIt := by
  refine fun s rest => ⟨fun hgiven hquit hfatal => ?_, fun c hgiven h hreset hquery => ?_⟩
  · have hgone : ¬processGone (taken s rest).runState = true := by
      rw [processGone_iff]
      exact not_or.mpr ⟨hquit, hfatal⟩
    rw [step_of_given hgiven, applyCommand, quitCommand, if_neg hgone]
    rfl
  · rw [step_of_given hgiven, applyCommand_refused (s := taken s rest) h hreset hquery]
    rfl

/-! ## Queries and reset -/

/-- Settles O43: a query only reports what `answer` reads from the state. -/
theorem queriesReadAndChangeNothing : Obligations.QueriesReadAndChangeNothing := by
  intro s rest q hgiven
  refine ⟨answer (taken s rest) q, step_of_given hgiven, ?_, ?_, ?_, ?_, ?_, ?_, ?_⟩
  · rintro i rfl
    rfl
  all_goals
    rintro rfl
    rfl

/-- R21: in the list of all slots, each is linked to the one numbered after it. -/
theorem linkIn_finRange : ∀ h : SlotIdx, linkIn h (List.finRange numSlots)
    = if hi : h.val + 1 < 32 then some ⟨h.val + 1, hi⟩ else none := by
  decide

/-- Settles O41: the fields of the table of R26, with the links that its free list implies. -/
theorem resetCommandValues : Obligations.ResetCommandValues := by
  intro s rest hgiven
  refine ⟨(resetCommand (taken s rest)).respond .accepted, ?_, rfl, ?_⟩
  · rw [step_of_given hgiven, applyCommand]
  · simp only [State.respond_pc, resetCommand_pc, State.respond_runState, resetCommand_runState, State.respond_slot,
      resetCommand_expr, State.freeHead, State.activeHead, State.respond_freeList, resetCommand_freeList,
      State.respond_activeList, resetCommand_activeList, State.next, List.not_mem_nil, if_false, linkIn_finRange,
      State.respond_mem, resetCommand_mem, State.respond_cfg, resetCommand_cfg, State.respond_inputs,
      resetCommand_inputs]
    exact ⟨rfl, trivial, fun _ => trivial, rfl, rfl, fun _ => trivial, rfl, rfl, rfl⟩

/-! ## Start-up (R222) -/

/-- Where the only failure there can be is `r` and some element fails, the list fails with `r`. -/
theorem convertList_error {α β : Type} {f : α → Except FatalReason β} {r : FatalReason}
    (honly : ∀ a e, f a = .error e → e = r) {xs : List α} (h : ∃ a ∈ xs, f a = .error r) :
    (convertList f xs).2 = some r := by
  induction xs with
  | nil => simp at h
  | cons x rest ih =>
    rw [convertList]
    cases hx : f x with
    | error e => simp [honly x e hx]
    | ok b =>
      simp only [hx, List.exists_mem_cons_iff, reduceCtorEq, false_or] at h
      exact ih h

theorem convertList_none_or {α β : Type} {f : α → Except FatalReason β} {r : FatalReason}
    (honly : ∀ a e, f a = .error e → e = r) (xs : List α) :
    (convertList f xs).2 = none ∨ (convertList f xs).2 = some r := by
  induction xs with
  | nil => exact .inl rfl
  | cons x rest ih =>
    rw [convertList]
    cases hx : f x with
    | error e => simp [honly x e hx]
    | ok b => exact ih

theorem convertEntry_eq_error_iff {d : TemplateEntry} {r : FatalReason} :
    d.convert = .error r ↔ convertTemplate d.template = .error r := by
  rw [TemplateEntry.convert]
  cases convertTemplate d.template <;> simp

theorem convertEntry_only_badTemplate (d : TemplateEntry) (e : FatalReason) (h : d.convert = .error e) :
    e = .badTemplate :=
  eq_badTemplate_of_convertTemplate_eq_error (convertEntry_eq_error_iff.mp h)

theorem startUp_of_bad {cfg : Config} {table : List TemplateEntry} {halts : List Text} {u : Unspecified} {mem : Memory}
    (h : (∃ d ∈ table, convertTemplate d.template = .error .badTemplate)
      ∨ ∃ text ∈ halts, convertTemplate text = .error .badTemplate) :
    startUp cfg table halts u mem = (converted cfg table halts u mem).enterFatal .badTemplate := by
  have honly : ∀ (text : Text) e, convertTemplate text = .error e → e = .badTemplate :=
    fun _ _ => eq_badTemplate_of_convertTemplate_eq_error
  have hfail : (convertList TemplateEntry.convert table).2.or (convertList convertTemplate halts).2
      = some .badTemplate := by
    rcases h with ⟨d, hd, hbad⟩ | hhalts
    · rw [convertList_error convertEntry_only_badTemplate ⟨d, hd, convertEntry_eq_error_iff.mpr hbad⟩]
      rfl
    · rw [convertList_error honly hhalts]
      rcases convertList_none_or convertEntry_only_badTemplate table with h | h <;> rw [h] <;> rfl
  rw [startUp, hfail]

theorem startUp_of_ok {cfg : Config} {table : List TemplateEntry} {halts : List Text} (u : Unspecified) (mem : Memory)
    {entries : List Entry} {patterns : List Pattern} (htable : table.map TemplateEntry.convert = entries.map .ok)
    (hhalts : halts.map convertTemplate = patterns.map .ok) :
    startUp cfg table halts u mem
      = State.resetWith { cfg with patternTable := entries, haltPatterns := patterns } u mem [] 0 := by
  rw [startUp, converted, convertList_ok _ htable, convertList_ok _ hhalts]
  rfl

/-- Settles O60: a list converts entry by entry up to the first failure, which can only be BadTemplate; the default
declarations all convert. -/
theorem startUpConvertsEveryTemplate : Obligations.StartUpConvertsEveryTemplate := by
  refine fun cfg table halts u mem => ⟨fun entries patterns => startUp_of_ok u mem, fun h => ?_, ?_⟩
  · exact ⟨_, startUp_of_bad h, rfl, rfl, rfl, rfl, rfl, rfl⟩
  · exact startUp_of_ok _ _ tableIsDerivedFromItsTemplates (patterns := []) rfl

end Sys2Proof.Machine
end

section
/-! SUPPORT. The watchpoint pool (60_exceptions.md R190, R191, R194): allocation, the outcomes of `wp_set` and of
`wp_delete`, with the obligations on them. -/

namespace Sys2Proof.Machine

/-! ## Allocation -/

theorem allocate_of_cons {s : State} {h : SlotIdx} {rest : List SlotIdx} (hfree : s.freeList = h :: rest) :
    allocate s = some (h, { s with freeList := rest, activeList := h :: s.activeList }) := by
  rw [allocate, hfree]

theorem allocate_eq_none_iff (s : State) : allocate s = none ↔ s.freeHead = none := by
  unfold allocate State.freeHead
  cases s.freeList <;> simp

/-- Allocations take the free list from its head and push each handle on the active list. -/
theorem allocateMany_of_append {hs rest : List SlotIdx} {s : State} (hfree : s.freeList = hs ++ rest) :
    allocateMany hs.length s
      = some (hs, { s with freeList := rest, activeList := hs.reverse ++ s.activeList }) := by
  induction hs generalizing s with
  | nil =>
    rw [List.nil_append] at hfree
    rw [← hfree]
    rfl
  | cons h more ih =>
    have hmore := @ih { s with freeList := more ++ rest, activeList := h :: s.activeList } rfl
    simp only [List.length_cons, allocateMany, allocate_of_cons hfree, List.append_eq, hmore, List.reverse_cons,
      List.append_assoc, List.singleton_append]

/-- Settles O45: each allocation takes the head of the free list, so 32 of them take the list in its order. -/
theorem thirtyTwoAllocationsThenNone : Obligations.ThirtyTwoAllocationsThenNone := by
  refine ⟨allocate_eq_none_iff, fun s s1 h hs => ?_, fun s hfree hactive => ?_⟩
  · obtain ⟨rest, hfree, rfl⟩ := allocate_eq_some hs
    unfold State.freeHead
    rw [hfree]
    exact ⟨rfl, rfl, rfl, rfl, rfl⟩
  · have hmany := allocateMany_of_append (rest := []) (hfree.trans (List.append_nil _).symm)
    rw [List.length_finRange, hactive, List.append_nil] at hmany
    exact ⟨_, hmany, rfl, rfl, rfl⟩

/-! ## Setting and deleting a watchpoint -/

theorem not_processGone_of_accepts {s : State} (h : AcceptsWatchpoints s) : ¬processGone s.runState = true := by
  rw [processGone_iff]
  rcases h with h | h | h | h <;> rw [h] <;> decide

section
variable (s : State) (rest : List Input)

@[simp] theorem taken_regs : (taken s rest).regs = s.regs := rfl
@[simp] theorem taken_pc : (taken s rest).pc = s.pc := rfl
@[simp] theorem taken_mem : (taken s rest).mem = s.mem := rfl
@[simp] theorem taken_runState : (taken s rest).runState = s.runState := rfl
@[simp] theorem taken_slots : (taken s rest).slots = s.slots := rfl
@[simp] theorem taken_slot (k : SlotIdx) : (taken s rest).slot k = s.slot k := rfl
@[simp] theorem taken_freeList : (taken s rest).freeList = s.freeList := rfl
@[simp] theorem taken_activeList : (taken s rest).activeList = s.activeList := rfl
@[simp] theorem taken_cfg : (taken s rest).cfg = s.cfg := rfl

@[simp] theorem exprValue_taken (text : Text) : exprValue (taken s rest) text = exprValue s text :=
  exprValue_congr (s := taken s rest) (t := s) ⟨rfl, rfl, rfl, rfl⟩ text

end

/-- Settles O46: the clauses are the outcomes of `wpSet_cases`, in the state after the input is taken, where an
expression has the result it had before. -/
theorem watchpointSetOutcomes : Obligations.WatchpointSetOutcomes := by
  intro s t text rest hgiven haccepts hstep
  rw [step_of_given hgiven, applyCommand, if_neg (not_processGone_of_accepts (s := taken s rest) haccepts)] at hstep
  have hcases := wpSet_cases (taken s rest) text
  rw [Host.Outcome.next.inj hstep] at hcases
  cases hcases with
  | syntaxError calls p value result =>
    rw [exprValue_taken] at value
    simp [value, result]
  | capacity calls value result =>
    rw [exprValue_taken] at value
    simp [value, result]
  | fatal calls r value result =>
    rw [exprValue_taken] at value
    simp [value, result]
  | tooLong calls v value long result =>
    rw [exprValue_taken] at value
    rw [taken_cfg] at long
    simp [value, long, result]
  | exhausted calls v value fits full result =>
    rw [exprValue_taken] at value
    rw [taken_cfg] at fits
    rw [taken_freeList] at full
    simp [value, fits, full, result]
  | taken calls v h free value fits full result =>
    rw [exprValue_taken] at value
    rw [taken_cfg] at fits
    rw [taken_freeList] at full
    have hslot : ∀ k, t.slot k = if k = h then { expr := text, last := v } else s.slot k := fun k => by
      rw [result]
      exact State.slot_setSlot _ h k _
    suffices hslots : t.slot h = { expr := text, last := v } ∧ ∀ k, k ≠ h → t.slot k = s.slot k by
      rw [result] at hslots ⊢
      simpa [value, fits, full] using hslots
    exact ⟨(hslot h).trans (if_pos rfl), fun k hk => (hslot k).trans (if_neg hk)⟩

theorem activeSlot_of_mem {s : State} {h : SlotIdx} (hmem : h ∈ s.activeList) : activeSlot s h.val = some h := by
  have hsome : (activeSlot s h.val).isSome := by
    unfold activeSlot
    rw [List.find?_isSome]
    exact ⟨h, hmem, beq_self_eq_true _⟩
  obtain ⟨k, hk⟩ := Option.isSome_iff_exists.mp hsome
  have hval := (activeSlot_eq_some hk).2
  rw [hk, Fin.ext (by omega : k.val = h.val)]

theorem activeSlot_eq_none {s : State} {id : Int} (hnone : ∀ h ∈ s.activeList, (h.val : Int) ≠ id) :
    activeSlot s id = none := by
  unfold activeSlot
  simpa using hnone

section
variable (s : State) (h : SlotIdx)

@[simp] theorem release_regs : (release s h).regs = s.regs := rfl
@[simp] theorem release_pc : (release s h).pc = s.pc := rfl
@[simp] theorem release_mem : (release s h).mem = s.mem := rfl
@[simp] theorem release_runState : (release s h).runState = s.runState := rfl
@[simp] theorem release_activeList : (release s h).activeList = s.activeList.erase h := rfl
@[simp] theorem release_freeList : (release s h).freeList = h :: s.freeList := rfl

theorem release_slot (k : SlotIdx) :
    (release s h).slot k = if k = h then { expr := [], last := Config.freeWord s.fresh } else s.slot k :=
  State.slot_setSlot s h k _

end

/-- Settles O47: the slot the argument names is erased from the active list, where it stands once, and pushed on the free
list. -/
theorem watchpointDeleteOutcomes : Obligations.WatchpointDeleteOutcomes := by
  intro s id rest hgiven haccepts hpool
  rw [step_of_given hgiven, applyCommand, if_neg (not_processGone_of_accepts (s := taken s rest) haccepts)]
  refine ⟨fun hnone => ?_, fun h hmem hid => ⟨(release (taken s rest) h).respond .accepted, ?_⟩⟩
  · rw [wpDelete, activeSlot_eq_none (s := taken s rest) hnone]
    rfl
  · have hnodup : s.activeList.Nodup := (List.nodup_append.mp hpool.nodup).2.1
    have herase : s.activeList.erase h = s.activeList.filter (· ≠ h) := by
      rw [hnodup.erase_eq_filter]
      exact List.filter_congr fun k _ => by rw [Bool.eq_iff_iff, bne_iff_ne, decide_eq_true_iff]
    subst hid
    rw [wpDelete, activeSlot_of_mem (s := taken s rest) hmem]
    have hslot : ∀ k, ((release (taken s rest) h).respond .accepted).slot k
        = if k = h then { expr := [], last := Config.freeWord (taken s rest).fresh } else s.slot k := fun k => by
      rw [State.respond_slot, release_slot, taken_slot]
    refine ⟨rfl, rfl, ?_, ?_, ?_, fun k hk => ?_, ⟨_, allocate_of_cons (rest := s.freeList) ?_⟩, ?_⟩
    · simpa using herase
    · simp
    · rw [hslot, if_pos rfl]
    · rw [hslot, if_neg hk]
    · simp
    · simp

end Sys2Proof.Machine
end

section
/-! SUPPORT. One scan of the comparator (60_exceptions.md R192): what it does to the state and which changes it reports,
by the values of the active expressions, with the obligation on it. -/

namespace Sys2Proof.Machine

/-! ## One watchpoint of the scan -/

/-- The state after the scan has evaluated slot `h` to `v` with these port calls. -/
def refreshed (s : State) (h : SlotIdx) (calls : List PortCall) (v : Word) : State :=
  if v = (s.slot h).last then s.logCalls calls
  else (s.logCalls calls).setSlot h { expr := (s.slot h).expr, last := v }

/-- What the scan reports of a slot whose value is `v`. -/
def changesOf (s : State) (h : SlotIdx) (v : Word) : List Change :=
  if v = (s.slot h).last then [] else [{ handle := h, old := (s.slot h).last }]

section
variable {s : State} {h : SlotIdx} {calls : List PortCall} {rest : List SlotIdx} (changes : List Change)

theorem scanFrom_cons_ok {v : Word} (value : exprValue s (s.slot h).expr = (calls, .ok v)) :
    scanFrom (h :: rest) changes s = scanFrom rest (changes ++ changesOf s h v) (refreshed s h calls v) := by
  rw [scanFrom, value]
  unfold changesOf refreshed
  by_cases hv : v = (s.slot h).last
  · simp only [if_pos hv, List.append_nil]
  · simp only [if_neg hv]

theorem scanFrom_cons_fatal {r : FatalReason} (value : exprValue s (s.slot h).expr = (calls, .fatal r)) :
    scanFrom (h :: rest) changes s = (changes, (s.logCalls calls).enterFatal r) := by
  rw [scanFrom, value]

end

section
variable (s : State) (h : SlotIdx) (calls : List PortCall) (v : Word)

theorem refreshed_frame : ScanFrame [h] s (refreshed s h calls v) := by
  unfold refreshed
  split
  · exact scanFrame_logCalls _ _ _
  · exact scanFrame_update _ _ _ _ _

theorem refreshed_slot (k : SlotIdx) :
    (refreshed s h calls v).slot k = if k = h then { expr := (s.slot h).expr, last := v } else s.slot k := by
  unfold refreshed
  split
  case isTrue hv =>
    rw [State.logCalls_slot]
    split
    case isTrue hk => rw [hk, hv]
    case isFalse => rfl
  case isFalse => rw [State.slot_setSlot, State.logCalls_slot]

@[simp] theorem refreshed_runState : (refreshed s h calls v).runState = s.runState := by
  unfold refreshed
  split <;> rfl

@[simp] theorem refreshed_fatalReason : (refreshed s h calls v).fatalReason = s.fatalReason := by
  unfold refreshed
  split <;> rfl

@[simp] theorem refreshed_port : (refreshed s h calls v).port = s.port ++ calls := by
  unfold refreshed
  split <;> rfl

/-- A scanned slot keeps its text, so an expression has the value it had. -/
theorem exprValue_refreshed (k : SlotIdx) :
    exprValue (refreshed s h calls v) ((refreshed s h calls v).slot k).expr = exprValue s (s.slot k).expr := by
  have hframe := refreshed_frame s h calls v
  rw [hframe.exprs, exprValue_congr hframe.sameProgram]

end

/-! ## A scan in which every expression has a value -/

/-- Every expression of the slots `hs` has its value `val` now. -/
def HaveValues (hs : List SlotIdx) (val : SlotIdx → Word) (s : State) : Prop :=
  ∀ h ∈ hs, (exprValue s (s.slot h).expr).2 = .ok (val h)

/-- What a scan over slots that have their values leaves. -/
structure Scanned (hs : List SlotIdx) (val : SlotIdx → Word) (s t : State) : Prop where
  frame : ScanFrame hs s t
  slot : ∀ k, t.slot k = if k ∈ hs then { expr := (s.slot k).expr, last := val k } else s.slot k
  runState : t.runState = s.runState
  fatalReason : t.fatalReason = s.fatalReason
  port : t.port = s.port ++ hs.flatMap fun h => (exprValue s (s.slot h).expr).1

theorem HaveValues.refreshed {h : SlotIdx} {rest : List SlotIdx} {val : SlotIdx → Word} {s : State}
    (hvals : HaveValues (h :: rest) val s) (calls : List PortCall) (v : Word) :
    HaveValues rest val (refreshed s h calls v) := by
  intro k hk
  rw [exprValue_refreshed]
  exact hvals k (List.mem_cons_of_mem h hk)

theorem scanFrom_scanned {hs : List SlotIdx} {val : SlotIdx → Word} {s : State} (hvals : HaveValues hs val s)
    (changes : List Change) : Scanned hs val s (scanFrom hs changes s).2 := by
  induction hs generalizing s changes with
  | nil => exact ⟨ScanFrame.refl _ _, fun k => (if_neg List.not_mem_nil).symm, rfl, rfl, (List.append_nil _).symm⟩
  | cons h rest ih =>
    have hval : exprValue s (s.slot h).expr = ((exprValue s (s.slot h).expr).1, .ok (val h)) :=
      Prod.ext rfl (hvals h List.mem_cons_self)
    rw [scanFrom_cons_ok changes hval]
    generalize (exprValue s (s.slot h).expr).1 = calls at hval
    obtain ⟨hframe, hslot, hrun, hreason, hport⟩ :=
      ih (hvals.refreshed calls (val h)) (changes ++ changesOf s h (val h))
    refine ⟨?_, fun k => ?_, ?_, ?_, ?_⟩
    · exact ((refreshed_frame s h calls (val h)).mono (by simp)).trans (hframe.mono (by simp +contextual))
    · rw [hslot, refreshed_slot]
      by_cases hkh : k = h
      · subst hkh
        simp
      · simp [hkh]
    · rw [hrun, refreshed_runState]
    · rw [hreason, refreshed_fatalReason]
    · rw [hport, refreshed_port]
      simp [hval, exprValue_refreshed]

/-- The scan goes on behind slots whose expressions have their values. -/
theorem scanFrom_append {hs : List SlotIdx} {val : SlotIdx → Word} {s : State} (hvals : HaveValues hs val s)
    (rest : List SlotIdx) (changes : List Change) :
    scanFrom (hs ++ rest) changes s = scanFrom rest (scanFrom hs changes s).1 (scanFrom hs changes s).2 := by
  induction hs generalizing s changes with
  | nil => rfl
  | cons h more ih =>
    have hval : exprValue s (s.slot h).expr = ((exprValue s (s.slot h).expr).1, .ok (val h)) :=
      Prod.ext rfl (hvals h List.mem_cons_self)
    rw [List.cons_append, scanFrom_cons_ok changes hval, scanFrom_cons_ok changes hval]
    exact ih (hvals.refreshed _ _) _

/-- A scan over distinct slots reports of each the change between its cached value and its value. -/
theorem scanFrom_changes {hs : List SlotIdx} {val : SlotIdx → Word} {s : State} (hvals : HaveValues hs val s)
    (hnodup : hs.Nodup) (changes : List Change) :
    (scanFrom hs changes s).1 = changes ++ hs.flatMap fun h => changesOf s h (val h) := by
  induction hs generalizing s changes with
  | nil => exact (List.append_nil _).symm
  | cons h rest ih =>
    obtain ⟨hhead, hrest⟩ := List.nodup_cons.mp hnodup
    have hval : exprValue s (s.slot h).expr = ((exprValue s (s.slot h).expr).1, .ok (val h)) :=
      Prod.ext rfl (hvals h List.mem_cons_self)
    generalize (exprValue s (s.slot h).expr).1 = calls at hval
    have hsame : ∀ k ∈ rest, changesOf (refreshed s h calls (val h)) k (val k) = changesOf s k (val k) := fun k hk => by
      have hne : k ≠ h := fun e => hhead (e ▸ hk)
      rw [changesOf, refreshed_slot, if_neg hne, changesOf]
    rw [scanFrom_cons_ok changes hval, ih (hvals.refreshed _ _) hrest, List.flatMap_congr hsame, List.flatMap_cons,
      List.append_assoc]

theorem flatMap_changesOf (hs : List SlotIdx) (val : SlotIdx → Word) (s : State) :
    (hs.flatMap fun h => changesOf s h (val h))
      = (hs.filter fun h => val h ≠ (s.slot h).last).map fun h => { handle := h, old := (s.slot h).last } := by
  induction hs with
  | nil => rfl
  | cons h rest ih =>
    rw [List.flatMap_cons, ih, changesOf, List.filter_cons]
    by_cases hv : val h = (s.slot h).last <;> simp [hv]

/-! ## A whole scan (R192) -/

theorem detectChanges_fst (s : State) : (detectChanges s).1 = (scanFrom s.activeList [] s).1 := by
  unfold detectChanges
  simp only
  split <;> rfl

theorem detectChanges_snd (s : State) : (detectChanges s).2
    = if (detectChanges s).1 ≠ [] ∧ (scanFrom s.activeList [] s).2.runState = .running then
        (scanFrom s.activeList [] s).2.setRunState .stopped
      else (scanFrom s.activeList [] s).2 := by
  rw [detectChanges_fst]
  unfold detectChanges
  simp only
  split <;> rfl

section
variable {s : State} {val : SlotIdx → Word} (hvals : HaveValues s.activeList val s)
include hvals

theorem detectChanges_of_values (hnodup : s.activeList.Nodup) :
    (detectChanges s).1 = (s.activeList.filter fun h => val h ≠ (s.slot h).last).map
      fun h => { handle := h, old := (s.slot h).last } := by
  rw [detectChanges_fst, scanFrom_changes hvals hnodup, List.nil_append, flatMap_changesOf]

/-- Where every active expression has its value, the scan leaves its slots refreshed and stops a run it finds a change
in. -/
theorem detectChanges_scanned : ∃ t, Scanned s.activeList val s t
    ∧ (detectChanges s).2
      = if (detectChanges s).1 ≠ [] ∧ s.runState = .running then t.setRunState .stopped else t := by
  have hscanned := scanFrom_scanned hvals []
  refine ⟨_, hscanned, ?_⟩
  rw [detectChanges_snd, hscanned.runState]

end

/-- A fatal expression ends the scan there, after the slots before it. -/
theorem detectChanges_of_fatal {s : State} {val : SlotIdx → Word} {before after : List SlotIdx} {h : SlotIdx}
    {r : FatalReason} (hactive : s.activeList = before ++ h :: after) (hvals : HaveValues before val s)
    (hfatal : (exprValue s (s.slot h).expr).2 = .fatal r) :
    ∃ t calls, Scanned before val s t ∧ (detectChanges s).2 = (t.logCalls calls).enterFatal r := by
  have hscanned := scanFrom_scanned hvals []
  have hval : exprValue s (s.slot h).expr = ((exprValue s (s.slot h).expr).1, .fatal r) := Prod.ext rfl hfatal
  rw [exprValue_congr hscanned.frame.sameProgram, ← hscanned.frame.exprs] at hval
  have hscan := scanFrom_append hvals (h :: after) []
  rw [scanFrom_cons_fatal _ hval, ← hactive] at hscan
  have hend : (detectChanges s).2 = (scanFrom s.activeList [] s).2 := by
    rw [detectChanges_snd, hscan, if_neg]
    rintro ⟨-, hrun⟩
    cases hrun
  exact ⟨_, _, hscanned, hend.trans (congrArg Prod.snd hscan)⟩

theorem detectChanges_nil {s : State} (h : s.activeList = []) : detectChanges s = ([], s) := by
  rw [detectChanges, h]
  rfl

/-- Settles O48: the frame of a scan, a scan in which every expression has its value, and one that ends at a fatal
expression. -/
theorem changeDetectionScan : Obligations.ChangeDetectionScan := by
  intro s t changes val hpool hscan
  have hnodup : s.activeList.Nodup := (List.nodup_append.mp hpool.nodup).2.1
  obtain rfl : (detectChanges s).1 = changes := congrArg Prod.fst hscan
  obtain rfl : (detectChanges s).2 = t := congrArg Prod.snd hscan
  obtain ⟨hframe, -⟩ := detectChanges_frame s
  refine ⟨hframe.regs, hframe.pc, hframe.mem, hframe.freeList, hframe.activeList, fun hvals => ?_,
    fun before h after r hactive hvals hfatal => ?_⟩
  · obtain ⟨t, ⟨-, hslot, hrun, hreason, -⟩, hresult⟩ := detectChanges_scanned hvals
    have hslots : (detectChanges s).2.slot = t.slot := by rw [hresult]; split <;> rfl
    refine ⟨detectChanges_of_values hvals hnodup, fun h hh => ?_, fun h hh => ?_, ?_, ?_⟩
    · rw [hslots, hslot, if_pos hh]
    · rw [hslots, hslot, if_neg hh]
    · rw [hresult, apply_ite State.runState, hrun]
      rfl
    · rw [hresult, apply_ite State.fatalReason]
      exact (ite_self t.fatalReason).trans hreason
  · obtain ⟨t, calls, ⟨-, hslot, -, -, -⟩, hresult⟩ := detectChanges_of_fatal hactive hvals hfatal
    rw [hresult]
    refine ⟨rfl, rfl, fun k hk => ?_, fun k hk => ?_⟩
    · exact (hslot k).trans (if_pos hk)
    · exact (hslot k).trans (if_neg hk)

end Sys2Proof.Machine
end

section
/-! SUPPORT. The end of a round of the run loop, by the run state after the instruction and after its scan
(60_exceptions.md R182, R189, R193), with the obligations on runs. -/

namespace Sys2Proof.Machine

/-! ## The step after `exec_once` -/

section
variable {s u : State} (hu : AfterExecOnce s u)
include hu

theorem step_of_afterExecOnce (hs : RunnableState s) : step s = .next (afterInstruction u) := by
  obtain ⟨w, hw, hrun⟩ := hu
  exact step_of_fetchWord hs hw hrun

theorem AfterExecOnce.frame : ExecFrame (fetched s.clearOutputs) u := by
  obtain ⟨w, -, hrun⟩ := hu
  obtain ⟨t, ht, hframe⟩ := runSelected_framed (dispatchWord s.cfg.table w) (fetched s.clearOutputs)
  cases ht.symm.trans hrun
  exact hframe

theorem AfterExecOnce.slot (k : SlotIdx) : u.slot k = s.slot k := by
  rw [State.slot_congr hu.frame.slots]
  rfl

theorem AfterExecOnce.activeList : u.activeList = s.activeList := hu.frame.activeList

theorem AfterExecOnce.done : u.progress.done = s.progress.done := congrArg RunProgress.done hu.frame.progress

theorem AfterExecOnce.left : u.progress.left = s.progress.left := congrArg RunProgress.left hu.frame.progress

/-- A step of a run ends as it began, trapped, halted or fatal. -/
theorem AfterExecOnce.runState (hs : RunnableState s) : u.runState = .running ∨ u.runState = .trappedOk
    ∨ u.runState = .trappedBad ∨ u.runState = .halted ∨ u.runState = .fatal := by
  have hrunning : (fetched s.clearOutputs).runState = .running := hs.1
  have hend := hu.frame.runState
  rw [hrunning] at hend
  exact hend.imp_right (.imp_right (.imp_right (.imp_right And.left)))

end

/-! ## The run state at the end of a round -/

/-- R192, R193: the scan ends in FATAL, or stops a running loop where it finds a change and else keeps the run state. -/
theorem detectChanges_runState (s : State) : (detectChanges s).2.runState = .fatal
    ∨ (detectChanges s).2.runState
      = if (detectChanges s).1 ≠ [] ∧ s.runState = .running then .stopped else s.runState := by
  rw [detectChanges_snd]
  rcases (scanFrom_frame s.activeList [] s).2 with ⟨hrun, -⟩ | ⟨hrun, -⟩
  · right
    rw [apply_ite State.runState, hrun]
    rfl
  · left
    rw [hrun, if_neg (by simp), hrun]

theorem closeRound_runState (changes : List Change) (v : State) : (closeRound changes v).runState
    = if v.runState = .running ∧ v.progress.left = some 0 then .stopped else v.runState := by
  rcases closeRound_cases changes v with ⟨hrun, hleft, e⟩ | ⟨hrun, hleft, e⟩ | ⟨hrun, e⟩ <;> rw [e]
  · rw [if_pos ⟨hrun, hleft⟩]
    rfl
  · rw [if_neg fun h => hleft h.2]
  · rw [if_neg fun h => hrun h.1]
    rfl

theorem closeRound_slots (changes : List Change) (v : State) : (closeRound changes v).slots = v.slots := by
  rcases closeRound_cases changes v with ⟨-, -, e⟩ | ⟨-, -, e⟩ | ⟨-, e⟩ <;> rw [e] <;> rfl

theorem closeRound_port (changes : List Change) (v : State) : (closeRound changes v).port = v.port := by
  rcases closeRound_cases changes v with ⟨-, -, e⟩ | ⟨-, -, e⟩ | ⟨-, e⟩ <;> rw [e] <;> rfl

theorem closeRound_of_not_running {changes : List Change} {v : State} (h : v.runState ≠ .running) :
    closeRound changes v = endRun changes v := by
  rw [closeRound, if_neg h]

theorem afterInstruction_of_fatal {u : State} (h : u.runState = .fatal) :
    afterInstruction u = endRun [] (countStep u) := by
  rw [afterInstruction, if_pos (show (countStep u).runState = .fatal from h)]

theorem afterInstruction_of_scan {u v : State} {changes : List Change} (h : u.runState ≠ .fatal)
    (hscan : detectChanges (countStep u) = (changes, v)) : afterInstruction u = closeRound changes v := by
  rw [afterInstruction, if_neg (show ¬(countStep u).runState = .fatal from h), hscan]

/-! ## The transition table (R189) -/

theorem wpSet_runState (s : State) (text : Text) :
    (wpSet s text).runState = s.runState ∨ (wpSet s text).runState = .fatal := by
  cases wpSet_cases s text with
  | syntaxError _ _ _ result | capacity _ _ result | tooLong _ _ _ _ result | taken _ _ _ _ _ _ _ result =>
    rw [result]
    exact .inl rfl
  | fatal _ _ _ result | exhausted _ _ _ _ _ result =>
    rw [result]
    exact .inr rfl

theorem wpDelete_runState (s : State) (id : Int) : (wpDelete s id).runState = s.runState := by
  unfold wpDelete
  split <;> rfl

/-- R182 (a) to (c): `run` enters RUNNING from STOPPED where it has a step to do. -/
theorem runCommand_runState {s : State} (between : s.runState ≠ .running) (steps : Int) : (runCommand s steps).runState
    = if s.runState = .stopped ∧ (steps = -1 ∨ 0 < steps) then .running else s.runState := by
  by_cases hlow : steps < -1
  · rw [runCommand_refused (.inl hlow), if_neg (by omega), State.respond_runState]
  · have hsteps : -1 ≤ steps := by omega
    by_cases hstopped : s.runState = .stopped
    · rw [runCommand_stopped hsteps hstopped, hstopped]
      by_cases hzero : steps = 0
      · rw [if_pos hzero, if_neg (by omega)]
        rfl
      · have hgoes : steps = -1 ∨ 0 < steps := by omega
        rw [if_neg hzero, if_pos (And.intro (rfl : RunState.stopped = .stopped) hgoes)]
        rfl
    · rw [if_neg fun h => hstopped h.1]
      cases hrun : s.runState with
      | stopped => exact absurd hrun hstopped
      | running => exact absurd hrun between
      | quit => rw [runCommand_refused (.inr (.inl hrun)), State.respond_runState, hrun]
      | fatal => rw [runCommand_refused (.inr (.inr hrun)), State.respond_runState, hrun]
      | trappedOk => rw [runCommand_terminal hsteps (.inl hrun), State.respond_runState, hrun]
      | trappedBad => rw [runCommand_terminal hsteps (.inr (.inl hrun)), State.respond_runState, hrun]
      | halted => rw [runCommand_terminal hsteps (.inr (.inr hrun)), State.respond_runState, hrun]

theorem applyCommand_row {s : State} (between : s.runState ≠ .running) (c : Command) :
    CommandRow s.runState (applyCommand s c).runState c := by
  cases c with
  | reset =>
    rw [applyCommand, State.respond_runState, resetCommand_runState]
    rfl
  | run steps => exact runCommand_runState between steps
  | haltReq code =>
    rw [applyCommand, haltRequest, CommandRow]
    by_cases h : s.runState = .stopped
    · rw [if_pos h, if_pos h]
      rfl
    · rw [if_neg h, if_neg h]
      rfl
  | wpSet text =>
    rw [applyCommand, CommandRow]
    split
    case isTrue => exact .inl rfl
    case isFalse hgone =>
      have hquit : s.runState ≠ .quit := fun h => hgone ((processGone_iff _).mpr (.inl h))
      exact (wpSet_runState s text).imp_right fun h => ⟨hquit, h⟩
  | wpDelete id =>
    rw [applyCommand, CommandRow]
    split
    case isTrue => rfl
    case isFalse => exact wpDelete_runState s id
  | quit =>
    rw [applyCommand, quitCommand, CommandRow]
    by_cases hgone : processGone s.runState = true
    · rw [if_pos hgone]
      rcases (processGone_iff _).mp hgone with h | h <;> simp [h]
    · rw [if_neg hgone, if_neg fun h => hgone ((processGone_iff _).mpr (.inr h))]
      rfl
  | query q => rfl

/-- Counting a step of a run with a step left leaves none exactly where one was left. -/
theorem left_pred_eq_zero_iff {left : Option Nat} (h : left ≠ some 0) :
    left.map (· - 1) = some 0 ↔ left = some 1 := by
  cases left with
  | none => simp
  | some n =>
    have hn : n ≠ 0 := fun e => h (congrArg some e)
    simp only [Option.map_some, Option.some.injEq]
    omega

/-- Settles O38: an input moves the run state by its row, and a round by the instruction, then the scan, then the steps
left. -/
theorem runStateTransitionTable : Obligations.RunStateTransitionTable := by
  intro s t hstep
  refine ⟨fun hrun hinputs => ?_, fun c rest hgiven => ?_, fun addr b rest hrun hinputs => ?_, fun hs hfetch => ?_,
    fun u v changes hs hu hscan => ?_⟩
  · cases (step_idle hrun hinputs).symm.trans hstep
    rfl
  · cases (step_of_given hgiven).symm.trans hstep
    exact applyCommand_row (s := taken s rest) hgiven.1 c
  · cases (step_input hrun hinputs).symm.trans hstep
    rw [applyInput, apply_ite State.runState]
    exact ite_self s.runState
  · rcases step_running hs.1 hs.2 with ⟨-, h⟩ | ⟨u, hsome, -⟩
    · cases h.symm.trans hstep
      rfl
    · cases hfetch.symm.trans hsome
  · cases (step_of_afterExecOnce hu hs).symm.trans hstep
    have hleft : v.progress.left = some 0 ↔ s.progress.left = some 1 := by
      have hframe := (detectChanges_frame (countStep u)).1.progress
      rw [hscan, countStep_progress, hu.left] at hframe
      rw [hframe]
      exact left_pred_eq_zero_iff hs.2
    have hafter := detectChanges_runState (countStep u)
    rw [hscan, countStep_runState] at hafter
    have hclose : u.runState ≠ .fatal → (afterInstruction u).runState
        = if v.runState = .running ∧ s.progress.left = some 1 then .stopped else v.runState := fun h => by
      rw [afterInstruction_of_scan h hscan, closeRound_runState]
      simp only [hleft]
    refine ⟨fun h => ?_, fun h hv => ?_, fun h hv hchanges => ?_, fun h hv hchanges => ?_, fun h hv => ?_, ?_⟩
    · rw [afterInstruction_of_fatal h]
      exact h
    · simp [hclose h, hv]
    · have hstopped : v.runState = .stopped := (hafter.resolve_left hv).trans (if_pos ⟨hchanges, h⟩)
      simp [hclose (by simp [h]), hstopped]
    · have hrunning : v.runState = .running :=
        (hafter.resolve_left hv).trans ((if_neg fun hc => hc.1 hchanges).trans h)
      simp [hclose (by simp [h]), hrunning]
    · have hkeep : v.runState = u.runState := (hafter.resolve_left hv).trans (if_neg fun hc => by simp [hc.2] at h)
      rcases h with h | h | h <;> simp [hclose (by simp [h]), hkeep, h]
    · have hend := hu.runState hs
      tauto

/-- Settles O52: memory admits the fetch, no action ends in FATAL, and the scan has no expression to evaluate. -/
theorem totalMemoryRunsAreNeverFatal : Obligations.TotalMemoryRunsAreNeverFatal := by
  intro s t htotal hactive hrun hstep
  cases stepOutcome_of_step hstep with
  | done _ _ result => simp [Safe, result]
  | fetchFault _ refused _ => simp [admitsAccess_of_total htotal] at refused
  | executed u _ _ _ frame result =>
    have hu : u.runState ≠ .fatal := by
      rcases frame.runState with h | h | h | h | ⟨-, h⟩
      · simp [h, State.clearOutputs, hrun]
      · simp [h]
      · simp [h]
      · simp [h]
      · exact absurd htotal h
    rw [Safe, result, afterInstruction_of_scan hu (detectChanges_nil (frame.activeList.trans hactive)),
      closeRound_runState]
    split
    · nofun
    · exact hu
  | idle between _ _ | input between _ _ _ _ => exact absurd hrun between

/-! ## The end of a run within its steps (R182) -/

/-- The end of a round ends the run with the steps counted, or leaves it in progress with steps left. -/
theorem afterInstruction_ends_or_goes_on (u : State) :
    ((afterInstruction u).runState ≠ .running
      ∧ ∃ changes, (afterInstruction u).response = some (.runEnded (u.progress.done + 1) changes))
    ∨ ((afterInstruction u).runState = .running ∧ (afterInstruction u).progress = (countStep u).progress
      ∧ (countStep u).progress.left ≠ some 0) := by
  rcases afterInstruction_cases u with ⟨hfatal, e⟩ | ⟨-, e⟩ <;> rw [e]
  · exact .inl ⟨by simp [hfatal], _, rfl⟩
  · have hprogress := (detectChanges_frame (countStep u)).1.progress
    rw [← hprogress]
    have hdone : (detectChanges (countStep u)).2.progress.done = u.progress.done + 1 := by rw [hprogress]; rfl
    rw [← hdone]
    rcases closeRound_cases (detectChanges (countStep u)).1 (detectChanges (countStep u)).2 with
      ⟨-, -, e⟩ | ⟨hrun, hleft, e⟩ | ⟨hrun, e⟩ <;> rw [e]
    · exact .inl ⟨nofun, _, rfl⟩
    · exact .inr ⟨hrun, rfl, hleft⟩
    · exact .inl ⟨hrun, _, rfl⟩

/-- A step of a run ends it with the steps executed, or leaves it in progress with one step fewer. -/
theorem round_ends_or_goes_on {s : State} (hs : RunnableState s) : ∃ t, step s = .next t
    ∧ ((t.runState ≠ .running ∧ ∃ changes, t.response = some (.runEnded (s.progress.done + 1) changes))
      ∨ (t.runState = .running ∧ t.progress = (countStep s).progress ∧ (countStep s).progress.left ≠ some 0)) := by
  rcases step_running hs.1 hs.2 with ⟨-, h⟩ | ⟨u, -, -, hframe, h⟩
  · exact ⟨_, h, .inl ⟨nofun, _, rfl⟩⟩
  · have hprogress : u.progress = s.progress := hframe.progress
    have hround := afterInstruction_ends_or_goes_on u
    rw [countStep_progress, hprogress] at hround
    exact ⟨_, h, hround⟩

theorem run_succ_of_step {s t : State} (h : step s = .next t) (k : Nat) :
    Host.Core.run Sys2Proof.core (k + 1) s = Host.Core.run Sys2Proof.core k t := by
  have hcore : Sys2Proof.core.step s = .next t := h
  simp only [Host.Core.run, hcore]

/-- Settles O40, by induction on the steps left: a round that does not end the run leaves one step fewer. -/
theorem runEndsWithinItsStepCount : Obligations.RunEndsWithinItsStepCount := by
  intro s n hrun hleft
  induction n generalizing s with
  | zero =>
    obtain ⟨t, hstep, ⟨hend, changes, hresponse⟩ | ⟨-, -, hmore⟩⟩ :=
      round_ends_or_goes_on ⟨hrun, by simp [hleft]⟩
    · exact ⟨1, t, changes, le_rfl, le_rfl, run_succ_of_step hstep 0, hend, hresponse⟩
    · simp [hleft] at hmore
  | succ n ih =>
    obtain ⟨t, hstep, ⟨hend, changes, hresponse⟩ | ⟨hgoes, hprogress, -⟩⟩ :=
      round_ends_or_goes_on ⟨hrun, by simp [hleft]⟩
    · exact ⟨1, t, changes, le_rfl, by omega, run_succ_of_step hstep 0, hend, hresponse⟩
    · obtain ⟨k, t', changes, hk, hkn, hruns, hend, hresponse⟩ := ih t hgoes (by simp [hprogress, hleft])
      refine ⟨k + 1, t', changes, by omega, by omega, (run_succ_of_step hstep k).trans hruns, hend, ?_⟩
      rw [hresponse, hprogress, countStep_progress, Nat.add_assoc, Nat.add_comm 1 k]

/-! ## The scan after a step (R193, R199) -/

/-- Between runs no input refreshes a slot that stays active. -/
theorem InputOutcome.slot {s t : State} (h : InputOutcome s t) (hpool : PoolPartition s) {k : SlotIdx}
    (hbefore : k ∈ s.activeList) (hafter : k ∈ t.activeList) : t.slot k = s.slot k := by
  cases h with
  | control frame => exact State.slot_congr frame.slots k
  | memoryWrite _ _ result => rw [result]; rfl
  | reset result =>
    rw [result, State.respond_activeList, resetCommand_activeList] at hafter
    cases hafter
  | take text v h taken =>
    have hne : k ≠ h := fun e => hpool.disjoint (taken.free ▸ List.mem_cons_self) (e ▸ hbefore)
    rw [taken.slot, if_neg hne]
  | release h active result =>
    have hnodup : s.activeList.Nodup := (List.nodup_append.mp hpool.nodup).2.1
    rw [result] at hafter ⊢
    have hne : k ≠ h := (hnodup.mem_erase_iff.mp hafter).1
    rw [State.respond_slot, release_slot, if_neg hne]

/-- Settles O49: a round ends with the scan unless its instruction is fatal; between runs a slot that stays active is
kept. -/
theorem scanFollowsEveryExecutedStep : Obligations.ScanFollowsEveryExecutedStep := by
  intro s t hpool hstep
  refine ⟨fun u v changes hs hu hscan => ?_, fun hrun k hbefore hafter => ?_, detectChanges_nil⟩
  · cases (step_of_afterExecOnce hu hs).symm.trans hstep
    refine ⟨fun h => ?_, fun h => ?_, fun h hv => ?_⟩
    · rw [afterInstruction_of_fatal h]
      exact ⟨hu.frame.slots, by rw [endRun_response, countStep_progress, hu.done]⟩
    · rw [afterInstruction_of_scan h hscan, closeRound_slots]
    · have hscanRun := detectChanges_runState (countStep u)
      have hframe := (detectChanges_frame (countStep u)).1
      rw [hscan] at hscanRun hframe
      have hkeep : v.runState = u.runState :=
        (hscanRun.resolve_left hv).trans (if_neg fun hc => by simp [show u.runState = .running from hc.2] at h)
      have hclose : afterInstruction u = endRun changes v := by
        rw [afterInstruction_of_scan (hkeep ▸ hv) hscan, closeRound_of_not_running]
        rw [hkeep]
        rcases h with h | h | h <;> simp [h]
      rw [hclose]
      refine ⟨hkeep, hframe.haltRet, hframe.trapPc, ?_⟩
      rw [endRun_response, hframe.progress, countStep_progress, hu.done]
  · cases stepOutcome_of_step hstep with
    | done running _ _ => exact absurd running hrun
    | fetchFault runnable _ _ | executed _ runnable _ _ _ _ => exact absurd runnable.1 hrun
    | idle _ _ result => rw [result]; rfl
    | input _ i rest _ result =>
      rw [result] at hafter ⊢
      exact (applyInput_outcome (s := taken s rest) hrun i).slot hpool hbefore hafter

/-! ## A watchpoint on `$pc` -/

theorem exprValue_of_ok {s : State} {text : Text} {tokens : List Token} {calls : List PortCall} {v : Word}
    (htokens : tokenize text = .ok tokens) (hfits : exceeds tokens.length s.cfg.maxTokens = false)
    (hvalue : evalRange s tokens.length (retag tokens) = (calls, .ok v)) : exprValue s text = (calls, .ok v) := by
  simp [exprValue, htokens, hfits, hvalue]

theorem exprValue_pc {s : State} (hfits : exceeds 1 s.cfg.maxTokens = false) :
    exprValue s "$pc".toList = ([], .ok s.pc) := by
  have hvalue : singleToken s ⟨.reg, "$pc".toList⟩ = .ok s.pc := by
    simp only [singleToken, (registerNamesResolve.1 s).1]
  refine exprValue_of_ok (tokens := [⟨.reg, "$pc".toList⟩]) (by decide) hfits ?_
  rw [← hvalue]
  rfl

/-- Settles O51: the value of `$pc` is the present `pc`, so the scan reports the change and stops the run. -/
theorem pcWatchpointStopsAfterEveryStep : Obligations.PcWatchpointStopsAfterEveryStep := by
  intro s u h hs hu hrun hpc hactive hslot hfits
  have hactive' : (countStep u).activeList = [h] := hu.activeList.trans hactive
  have hslot' : (countStep u).slot h = { expr := "$pc".toList, last := s.pc } := (hu.slot h).trans hslot
  have hvals : HaveValues (countStep u).activeList (fun _ => u.pc) (countStep u) := by
    rw [hactive']
    intro k hk
    obtain rfl := List.mem_singleton.mp hk
    rw [hslot', exprValue_pc]
    · rfl
    · rw [countStep_cfg, hu.frame.cfg]
      exact hfits
  have hchanges : (detectChanges (countStep u)).1 = [{ handle := h, old := s.pc }] := by
    rw [detectChanges_of_values hvals (by rw [hactive']; exact List.nodup_singleton h), hactive',
      List.filter_singleton]
    simp [hu.slot, hslot, hpc]
  obtain ⟨v, hscanned, hresult⟩ := detectChanges_scanned hvals
  rw [if_pos ⟨by simp [hchanges], hrun⟩] at hresult
  have hnext : afterInstruction u = endRun [{ handle := h, old := s.pc }] (v.setRunState .stopped) := by
    rw [afterInstruction_of_scan (by simp [hrun]) (Prod.ext hchanges hresult)]
    exact closeRound_of_not_running nofun
  refine ⟨_, (step_of_afterExecOnce hu hs).trans (congrArg _ hnext), rfl, ?_, ?_⟩
  · rw [endRun_slot, State.setRunState_slot, hscanned.slot, if_pos (hactive' ▸ List.mem_singleton_self h)]
  · rw [endRun_response, State.setRunState_progress, hscanned.frame.progress, countStep_progress, hu.done]

end Sys2Proof.Machine
end

section
/-! SUPPORT. The step as its spec tells it: the fetch, the first matching entry, its action, and the port calls
(40_dispatch_step.md R71 to R75, 20_memory.md R43), with the obligations on the dispatcher. -/

namespace Sys2Proof.Machine

/-! ## The entry that a step runs -/

/-- Where an entry is the first to match the word fetched, its action runs on the tuple its tag decodes. -/
theorem runSelected_of_firstMatch {s : State} {w : Word} {e : Entry} (h : firstMatch s.cfg.table w = some e) :
    runSelected (dispatchWord s.cfg.table w) (fetched s.clearOutputs)
      = runAction e.action (decodeOperands w s e.tag) (fetched s.clearOutputs) := by
  have hsame : SameProgramState (fetched s.clearOutputs) s := ⟨rfl, rfl, rfl, rfl⟩
  rw [dispatchWord, h]
  exact (runSelected_select e w _).trans (by rw [decodeOperands_congr hsame])

/-- Settles O59: the table is closed by its last entry, the scan answers with the first entry that matches, and that
entry's action is what the step runs. -/
theorem anyTableRunsItsFirstMatchingAction : Obligations.AnyTableRunsItsFirstMatchingAction := by
  refine ⟨fun cfg before last htable hmask hvalue => ?_, fun cfg hopen => ?_, fun s w hs hw => ?_,
    fun e w i s htag hi => ?_⟩
  · rw [Config.table, htable, closeTable_append, if_pos (by simp [Entry.isCatchAll, hmask, hvalue]), List.append_assoc]
  · rcases List.eq_nil_or_concat cfg.patternTable with htable | ⟨before, last, htable⟩
    · rw [Config.table, htable]
      rfl
    · rw [List.concat_eq_append] at htable
      have hlast : ¬last.isCatchAll = true := by simpa [Entry.isCatchAll] using hopen before last htable
      rw [Config.table, htable, closeTable_append, if_neg hlast, List.append_cons, ← List.append_assoc]
      rfl
  · obtain ⟨e, he⟩ := firstMatch_table s.cfg w
    obtain ⟨before, after, htable, hm, hbefore⟩ := (firstMatchFollowsDeclaredOrder _ w e).mp he
    obtain ⟨u, hu, -⟩ := runAction_framed e.action (decodeOperands w s e.tag) (fetched s.clearOutputs)
    exact ⟨before, e, after, u, htable, hm, hbefore, hu,
      step_of_fetchWord hs hw ((runSelected_of_firstMatch he).trans hu)⟩
  · rw [htag]
    exact (exec_of_instr hi s).symm

/-! ## The instruction at `pc` -/

theorem fetchWord_of_bytes {s : State} {w : Word} (hadmit : s.admitsAccess s.pc .four = true)
    (h0 : Memory.byte s.mem s.pc = w.extractLsb' 0 8) (h1 : Memory.byte s.mem (s.pc + 1#32) = w.extractLsb' 8 8)
    (h2 : Memory.byte s.mem (s.pc + 2#32) = w.extractLsb' 16 8)
    (h3 : Memory.byte s.mem (s.pc + 3#32) = w.extractLsb' 24 8) : s.fetchWord = some w := by
  rw [State.fetchWord, State.memRead, if_pos hadmit, Memory.read, h0, h1, h2, h3]
  exact congrArg some (wordOfBytes_bytes w)

/-- Over the default table the encoding of a well-formed instruction selects it, an `inv` where no halt entry takes its
word. -/
theorem dispatchWord_encode {cfg : Config} {i : Instr} (hcfg : cfg.patternTable = defaultTable)
    (hwf : wellFormed i = true) (hhalt : ∀ w, i = .inv w → ∀ p ∈ cfg.haltPatterns, w &&& p.mask ≠ p.value) :
    dispatchWord cfg.table (encode i) = .instr i := by
  have hdecode := decodeWord_encode hwf
  rw [table_of_default hcfg]
  by_cases hreal : ∃ e ∈ realEntries, encode i &&& e.mask = e.value
  · obtain ⟨e, he, hm⟩ := hreal
    rw [dispatchWord_eq_decodeWord_of_mem _ he hm, hdecode]
  · have hnone : ∀ e ∈ realEntries, encode i &&& e.mask ≠ e.value := fun e he hm => hreal ⟨e, he, hm⟩
    rw [decodeWord_of_none hnone] at hdecode
    rw [dispatchWord_of_none _ hnone, if_neg fun ⟨p, hp, hm⟩ => hhalt _ hdecode.symm p hp hm, hdecode]

/-- Settles O11: the four bytes at `pc` are fetched as the encoding, which selects the instruction, and the end of the
round keeps what it left. -/
theorem stepRunsTheDecodedInstruction : Obligations.StepRunsTheDecodedInstruction := by
  intro s i hcfg hs hwf hadmit h0 h1 h2 h3 hhalt
  obtain ⟨u, hu, -⟩ := exec_framed i (fetched s.clearOutputs)
  have hround := afterInstruction_frame u
  refine ⟨u, hu, step_of_fetchWord hs (fetchWord_of_bytes hadmit h0 h1 h2 h3) ?_, hround.regs, hround.pc, hround.mem⟩
  rw [dispatchWord_encode hcfg hwf hhalt]
  exact hu

/-! ## The port calls of a step (R43) -/

/-- An outcome that is a next state in which the calls `calls` have been made. -/
def Calls (s : State) (calls : List PortCall) (r : Result) : Prop := ∃ t, r = .next t ∧ t.port = s.port ++ calls

section
variable (o : Operands) (s : State)

theorem calls_loadFrom (w : Width) (ext : Word → Word) : Calls s [.read o.address w] (loadFrom w ext o s) := by
  rcases loadFrom_cases w ext o s with ⟨-, h⟩ | ⟨-, h⟩
  · exact ⟨_, h, by simp⟩
  · exact ⟨_, h, by simp⟩

theorem calls_storeTo (w : Width) : Calls s [.write o.address w (w.truncate o.src2)] (storeTo w o s) := by
  rcases storeTo_cases w o s with ⟨-, h⟩ | ⟨-, h⟩
  · exact ⟨_, h, rfl⟩
  · exact ⟨_, h, by simp⟩

theorem calls_writeAndAdvance (rd : RegIdx) (v : Word) : Calls s [] (writeAndAdvance rd v s) := ⟨_, rfl, by simp⟩

theorem calls_write (rd : RegIdx) (v pc' : Word) : Calls s [] (.next ((s.writeReg rd v).setPc pc')) := ⟨_, rfl, by simp⟩

theorem calls_setPc (pc' : Word) : Calls s [] (.next (s.setPc pc')) := ⟨_, rfl, by simp⟩

theorem calls_takeRaise (r : Raise) : Calls s [] (.next (takeRaise s r)) := ⟨_, rfl, by cases r <;> simp⟩

theorem calls_shiftImmediate (shift : Word → BitVec 5 → Word) : Calls s [] (shiftImmediate o shift s) := by
  unfold shiftImmediate
  split
  · rcases rejectShift_cases s with ⟨-, h⟩ | ⟨-, h⟩ <;> rw [h]
    · exact calls_takeRaise s _
    · exact calls_setPc s _
  · exact calls_writeAndAdvance s _ _

/-- Every action makes its one data call, if it is a load or a store. -/
theorem calls_runAction (a : Action) : Calls s (dataCalls o a) (runAction a o s) := by
  cases a
  case lb | lh | lw | lbu | lhu => exact calls_loadFrom o s _ _
  case sb =>
    rw [dataCalls, and_ff_eq_truncate]
    exact calls_storeTo o s .one
  case sh =>
    rw [dataCalls, and_ffff_eq_truncate]
    exact calls_storeTo o s .two
  case sw => exact calls_storeTo o s .four
  case slli | srli | srai => exact calls_shiftImmediate o s _
  case jal | jalr => exact calls_write s _ _ _
  case beq | bne | blt | bge | bltu | bgeu => exact calls_setPc s _
  case ebreak | inv | halt => exact calls_takeRaise s _
  all_goals exact calls_writeAndAdvance s _ _

end

/-- Settles O44: the fetch and the action's data call stand before those of the scan, whose reads are those of its
expressions in the order of the active list. -/
theorem portCallsOfAStep : Obligations.PortCallsOfAStep := by
  intro s u t w e hs hw he hu hstep
  cases (step_of_afterExecOnce hu hs).symm.trans hstep
  refine ⟨?_, fun h => ?_, fun h hvalues => ?_⟩
  · obtain ⟨w', hw', hrun⟩ := hu
    cases hw.symm.trans hw'
    obtain ⟨t, ht, hport⟩ := calls_runAction (decodeOperands w s e.tag) (fetched s.clearOutputs) e.action
    rw [runSelected_of_firstMatch he, ht] at hrun
    cases hrun
    rw [hport]
    rfl
  · rw [afterInstruction_of_fatal h]
    rfl
  · choose! val hval using hvalues
    have hsame : ∀ text, exprValue (countStep u) text = exprValue u text :=
      exprValue_congr (s := countStep u) (t := u) ⟨rfl, rfl, rfl, rfl⟩
    have hvals : HaveValues (countStep u).activeList val (countStep u) := fun k hk => by
      rw [hsame]
      exact hval k (hu.activeList ▸ hk)
    obtain ⟨v, hscanned, hresult⟩ := detectChanges_scanned hvals
    have hport : (detectChanges (countStep u)).2.port = v.port := by
      rw [hresult]
      split <;> rfl
    rw [afterInstruction_of_scan h (Prod.eta _).symm, closeRound_port, hport, hscanned.port, countStep_activeList,
      hu.activeList]
    simp only [hsame, countStep_port, countStep_slot]

end Sys2Proof.Machine
end

section
/-! SUPPORT. The evaluator of watch expressions (49_watch_expression.md R157 to R166): the split point of a range, with
the obligations on precedence and on the fuel. -/

namespace Sys2Proof.Machine

/-! ## Every recursive call is on a shorter range (R166) -/

theorem length_of_wrapped {tokens inner : List Token} (h : wrapped tokens = some inner) :
    inner.length + 2 = tokens.length := by
  unfold wrapped at h
  split at h
  case h_1 => cases h
  case h_2 first rest =>
    split at h
    case h_1 => cases h
    case h_2 last hlast =>
      split at h
      case isFalse => cases h
      case isTrue =>
        have hpos : 0 < rest.length := List.length_pos_iff.mpr (by rintro rfl; cases hlast)
        cases h
        rw [List.length_dropLast, List.length_cons]
        omega

/-- Every remembered occurrence stands below index `n`. -/
def Found.Below (n : Nat) (f : Found) : Prop :=
  ∀ at? ∈ [f.andAt, f.eqAt, f.addAt, f.mulAt], ∀ i ∈ at?, i < n

theorem Found.Below.record {n : Nat} {f : Found} (h : f.Below n) (type : TokenType) {i : Nat} (hi : i < n) :
    (f.record type i).Below n := by
  have hor : ∀ at? : Option Nat, (∀ j ∈ at?, j < n) → ∀ j ∈ at?.or (some i), j < n := by
    intro at? hat j hj
    cases at? with
    | none => cases hj; exact hi
    | some k => exact hat j hj
  simp only [Found.Below, List.forall_mem_cons] at h ⊢
  obtain ⟨hand, heq, hadd, hmul, -⟩ := h
  cases type
  case and => exact ⟨hor _ hand, heq, hadd, hmul, nofun⟩
  case eq | neq => exact ⟨hand, hor _ heq, hadd, hmul, nofun⟩
  case plus | minus => exact ⟨hand, heq, hor _ hadd, hmul, nofun⟩
  case star | slash => exact ⟨hand, heq, hadd, hor _ hmul, nofun⟩
  all_goals exact ⟨hand, heq, hadd, hmul, nofun⟩

theorem Found.Below.pick {n : Nat} {f : Found} (h : f.Below n) {i : Nat} (hi : f.pick = some i) : i < n := by
  simp only [Found.Below, List.forall_mem_cons] at h
  obtain ⟨hand, heq, hadd, hmul, -⟩ := h
  simp only [Found.pick, Option.or_eq_some_iff] at hi
  rcases hi with hi | ⟨-, hi | ⟨-, hi | ⟨-, hi⟩⟩⟩
  · exact hand i hi
  · exact heq i hi
  · exact hadd i hi
  · exact hmul i hi

theorem below_of_scanSplit {n : Nat} {tokens : List (Token × Nat)} (hall : ∀ p ∈ tokens, p.2 < n) {depth : Nat}
    {f g : Found} (hf : f.Below n) (h : scanSplit tokens depth f = .ok g) : g.Below n := by
  induction tokens generalizing depth f with
  | nil =>
    rw [scanSplit] at h
    split at h
    case isTrue => cases h; exact hf
    case isFalse => cases h
  | cons p rest ih =>
    obtain ⟨hp, hrest⟩ := List.forall_mem_cons.mp hall
    unfold scanSplit at h
    split at h
    case h_1 => exact ih hrest hf h
    case h_2 =>
      split at h
      case isTrue => cases h
      case isFalse => exact ih hrest hf h
    case h_3 =>
      refine ih hrest ?_ h
      split
      case isTrue => exact hf.record _ hp
      case isFalse => exact hf

/-- The split point stands inside the range. -/
theorem splitPoint_lt {tokens : List Token} {i : Nat} (h : splitPoint tokens = .ok (some i)) : i < tokens.length := by
  unfold splitPoint at h
  split at h
  case h_1 found hfound =>
    refine Found.Below.pick (below_of_scanSplit (fun p hp => ?_) (by simp [Found.Below, Found.empty]) hfound)
      (Except.ok.inj h)
    exact List.snd_lt_of_mem_zipIdx (List.mem_reverse.mp hp)
  case h_2 => cases h

/-- Any two fuels of at least the length of a range give it the same evaluation. -/
theorem evalRange_eq_of_le (s : State) {m n : Nat} {tokens : List Token} (hm : tokens.length ≤ m)
    (hn : tokens.length ≤ n) : evalRange s m tokens = evalRange s n tokens := by
  induction m generalizing n tokens with
  | zero =>
    obtain rfl := List.length_eq_zero_iff.mp (Nat.le_zero.mp hm)
    simp only [evalRange]
  | succ m ih =>
    match tokens, n, hn with
    | [], _, _ => simp only [evalRange]
    | [t], _, _ => simp only [evalRange]
    | first :: second :: rest, n + 1, hn =>
      have hshorter : ∀ {range : List Token}, range.length < (first :: second :: rest).length →
          evalRange s m range = evalRange s n range := fun hlt => ih (by omega) (by omega)
      simp only [evalRange]
      split
      case h_1 inner hwrapped => exact hshorter (by have := length_of_wrapped hwrapped; omega)
      case h_2 =>
        split
        case h_1 => rfl
        case h_2 i hsplit =>
          have hi := splitPoint_lt hsplit
          rw [hshorter (range := (first :: second :: rest).take i) (by rw [List.length_take]; omega),
            hshorter (range := (first :: second :: rest).drop (i + 1)) (by rw [List.length_drop]; omega)]
        case h_3 => rw [hshorter (range := second :: rest) (Nat.lt_succ_self _)]

/-- Settles O56: the recursive calls are on shorter ranges. -/
theorem tokenCountIsEnoughFuel : Obligations.TokenCountIsEnoughFuel := fun s _ _ hn =>
  evalRange_eq_of_le s hn le_rfl

/-! ## Ranges without parentheses -/

theorem scanSplit_cons_of_flat {t : Token} (hl : t.type ≠ .lparen) (hr : t.type ≠ .rparen) (i : Nat)
    (rest : List (Token × Nat)) (found : Found) :
    scanSplit ((t, i) :: rest) 0 found = scanSplit rest 0 (found.record t.type i) := by
  rw [scanSplit]
  split
  case h_1 h => exact absurd h hr
  case h_2 h => exact absurd h hl
  case h_3 => rw [if_pos rfl]

theorem wrapped_of_ne_lparen {first : Token} (h : first.type ≠ .lparen) (rest : List Token) :
    wrapped (first :: rest) = none := by
  rw [wrapped]
  split
  case h_1 => rfl
  case h_2 => rw [if_neg fun hparens => h hparens.1]

/-- A token that has a value by itself is a literal or a register reference (R158). -/
theorem type_of_singleToken {s : State} {t : Token} {v : Word} (h : singleToken s t = .ok v) :
    t.type = .dec ∨ t.type = .hex ∨ t.type = .reg := by
  unfold singleToken at h
  split at h
  case h_1 htype => exact .inl htype
  case h_2 htype => exact .inr (.inl htype)
  case h_3 htype => exact .inr (.inr htype)
  case h_4 => cases h

theorem flat_of_operand {type : TokenType} (h : type = .dec ∨ type = .hex ∨ type = .reg) :
    type ≠ .lparen ∧ type ≠ .rparen ∧ ∀ (f : Found) (i : Nat), f.record type i = f := by
  rcases h with rfl | rfl | rfl <;> exact ⟨nofun, nofun, fun _ _ => rfl⟩

/-- An operator of class `k` found at index `i` (R160). -/
def Found.recordClass (f : Found) (k i : Nat) : Found :=
  match k with
  | 0 => { f with andAt := f.andAt.or (some i) }
  | 1 => { f with eqAt := f.eqAt.or (some i) }
  | 2 => { f with addAt := f.addAt.or (some i) }
  | _ => { f with mulAt := f.mulAt.or (some i) }

theorem flat_of_operatorClass {type : TokenType} {k : Nat} (h : operatorClass type = some k) :
    type ≠ .lparen ∧ type ≠ .rparen ∧ k < 4 ∧ ∀ (f : Found) (i : Nat), f.record type i = f.recordClass k i := by
  cases type
  case and | eq | neq | plus | minus | star | slash =>
    cases h
    exact ⟨nofun, nofun, by decide, fun _ _ => rfl⟩
  all_goals cases h

section
variable {s : State} {t1 t2 t3 o o1 o2 : Token} {a b c : Word} {k k1 k2 : Nat}
  (h1 : singleToken s t1 = .ok a) (h2 : singleToken s t2 = .ok b)
include h1 h2

theorem splitPoint_three (ho : operatorClass o.type = some k) : splitPoint [t1, o, t2] = .ok (some 1) := by
  obtain ⟨hl1, hr1, he1⟩ := flat_of_operand (type_of_singleToken h1)
  obtain ⟨hl2, hr2, he2⟩ := flat_of_operand (type_of_singleToken h2)
  obtain ⟨hl, hr, hk, he⟩ := flat_of_operatorClass ho
  have hpick : ∀ k < 4, (Found.empty.recordClass k 1).pick = some 1 := by decide
  have hscan : [t1, o, t2].zipIdx.reverse = [(t2, 2), (o, 1), (t1, 0)] := rfl
  rw [splitPoint, hscan, scanSplit_cons_of_flat hl2 hr2, he2, scanSplit_cons_of_flat hl hr, he,
    scanSplit_cons_of_flat hl1 hr1, he1]
  exact congrArg Except.ok (hpick k hk)

/-- Two operands that have values and an operator between them. -/
theorem evalRange_three (ho : operatorClass o.type = some k) (fuel : Nat) :
    evalRange s (fuel + 1) [t1, o, t2] = ([], applyBinary s.cfg.exprDivSigned o.type a b) := by
  rw [evalRange, wrapped_of_ne_lparen (flat_of_operand (type_of_singleToken h1)).1]
  simp only [splitPoint_three h1 h2 ho]
  have hleft : evalRange s fuel ([t1, o, t2].take 1) = ([], .ok a) := by simp [evalRange, h1]
  have hright : evalRange s fuel ([t1, o, t2].drop 2) = ([], .ok b) := by simp [evalRange, h2]
  rw [hleft, hright]
  rfl

theorem splitPoint_five (h3 : singleToken s t3 = .ok c) (ho1 : operatorClass o1.type = some k1)
    (ho2 : operatorClass o2.type = some k2) :
    splitPoint [t1, o1, t2, o2, t3] = .ok (some (if k2 ≤ k1 then 3 else 1)) := by
  obtain ⟨hl1, hr1, he1⟩ := flat_of_operand (type_of_singleToken h1)
  obtain ⟨hl2, hr2, he2⟩ := flat_of_operand (type_of_singleToken h2)
  obtain ⟨hl3, hr3, he3⟩ := flat_of_operand (type_of_singleToken h3)
  obtain ⟨hlo1, hro1, hk1, heo1⟩ := flat_of_operatorClass ho1
  obtain ⟨hlo2, hro2, hk2, heo2⟩ := flat_of_operatorClass ho2
  have hpick : ∀ k1 < 4, ∀ k2 < 4, ((Found.empty.recordClass k2 3).recordClass k1 1).pick
      = some (if k2 ≤ k1 then 3 else 1) := by decide
  have hscan : [t1, o1, t2, o2, t3].zipIdx.reverse = [(t3, 4), (o2, 3), (t2, 2), (o1, 1), (t1, 0)] := rfl
  rw [splitPoint, hscan, scanSplit_cons_of_flat hl3 hr3, he3, scanSplit_cons_of_flat hlo2 hro2, heo2,
    scanSplit_cons_of_flat hl2 hr2, he2, scanSplit_cons_of_flat hlo1 hro1, heo1, scanSplit_cons_of_flat hl1 hr1, he1]
  exact congrArg Except.ok (hpick k1 hk1 k2 hk2)

end

theorem binaryResult_ok_right (signedDiv : Bool) (op : TokenType) (l : Except FatalReason Word) (b : Word) :
    binaryResult signedDiv op l (.ok b) = l.bind fun a => applyBinary signedDiv op a b := by
  cases l <;> rfl

theorem binaryResult_ok_left (signedDiv : Bool) (op : TokenType) (a : Word) (r : Except FatalReason Word) :
    binaryResult signedDiv op (.ok a) r = r.bind fun b => applyBinary signedDiv op a b := by
  cases r <;> rfl

/-- Settles O55: the scan splits at the operator of the lower class, at the right one of two of the same class, and a
side of one operator is that operator on its operands. -/
theorem operatorsAssociateToTheLeft : Obligations.OperatorsAssociateToTheLeft := by
  intro s t1 t2 t3 o1 o2 a b c k1 k2 h1 h2 h3 ho1 ho2
  have hsplit := splitPoint_five h1 h2 h3 ho1 ho2
  have hwrapped := wrapped_of_ne_lparen (flat_of_operand (type_of_singleToken h1)).1 [o1, t2, o2, t3]
  refine ⟨fun h => ?_, fun h => ?_⟩
  · have hleft := evalRange_three h1 h2 ho1 3
    rw [if_pos h] at hsplit
    rw [evalRange]
    simp only [hwrapped, hsplit, List.take_succ_cons, List.take_zero, hleft, List.drop_succ_cons, List.drop_zero]
    rw [← binaryResult_ok_right, ← h3]
    rfl
  · have hright := evalRange_three h2 h3 ho2 3
    rw [if_neg (Nat.not_le.mpr h)] at hsplit
    rw [evalRange]
    simp only [hwrapped, hsplit, List.take_succ_cons, List.take_zero, List.drop_succ_cons, List.drop_zero, hright]
    rw [← binaryResult_ok_left, ← h1]
    rfl

end Sys2Proof.Machine
end

section
/-! SUPPORT. The tokenizer of watch expressions (49_watch_expression.md R153, R154): what each lexical rule reads, with
the obligations on the tokenizer and on the example expressions. -/

namespace Sys2Proof.Machine

/-! ## What a lexical rule reads -/

/-- Every character that `matchLen` counts is one of the class `p`. -/
def Reads (p : Char → Bool) (matchLen : Text → Nat) : Prop :=
  ∀ text : Text, ∀ c ∈ text.take (matchLen text), p c = true

theorem reads_spanLen {p q : Char → Bool} (h : ∀ c, q c = true → p c = true) : Reads p (spanLen q) := by
  intro text
  induction text with
  | nil => nofun
  | cons x rest ih =>
    rw [spanLen]
    split
    case isTrue hx => exact List.forall_mem_cons.mpr ⟨h x hx, ih⟩
    case isFalse => nofun

theorem reads_wordLen {p : Char → Bool} {word : Text} (h : ∀ c ∈ word, p c = true) : Reads p (wordLen word) := by
  intro text
  unfold wordLen
  split
  case isTrue hprefix => rwa [← List.prefix_iff_eq_take.mp (List.isPrefixOf_iff_prefix.mp hprefix)]
  case isFalse => nofun

/-- Not a space and not a tab. -/
def isInk (c : Char) : Bool := !isBlank c

/-- A class that holds neither blank holds only ink. -/
theorem isInk_of_class {p : Char → Bool} (hspace : p ' ' = false) (htab : p '\t' = false) (c : Char) (h : p c = true) :
    isInk c = true := by
  have hne : c ≠ ' ' ∧ c ≠ '\t' := ⟨fun e => by simp [e, hspace] at h, fun e => by simp [e, htab] at h⟩
  simp [isInk, isBlank, hne]

theorem reads_regLen : Reads isInk regLen := by
  intro text
  unfold regLen
  split
  case h_1 rest =>
    split
    case isTrue => nofun
    case isFalse => exact List.forall_mem_cons.mpr ⟨rfl, reads_spanLen (isInk_of_class (by decide) (by decide)) rest⟩
  case h_2 => nofun

theorem reads_hexLen : Reads isInk hexLen := by
  intro text
  unfold hexLen
  split
  case h_1 x rest =>
    split
    case isTrue hx =>
      simp only [Bool.and_eq_true, Bool.or_eq_true, beq_iff_eq] at hx
      refine List.forall_mem_cons.mpr ⟨rfl, List.forall_mem_cons.mpr ⟨?_, ?_⟩⟩
      · rcases hx.1 with rfl | rfl <;> rfl
      · exact reads_spanLen (isInk_of_class (by decide) (by decide)) rest
    case isFalse => nofun
  case h_2 => nofun

/-- A rule that reads no blank and gives a token. -/
structure InkRule (r : LexRule) : Prop where
  token : ∃ type, r.token = some type
  reads : Reads isInk r.matchLen

theorem inkRule_word {word : Text} (type : TokenType) (h : word.all isInk = true) :
    InkRule ⟨wordLen word, some type⟩ :=
  ⟨⟨type, rfl⟩, reads_wordLen (List.all_eq_true.mp h)⟩

/-- The rule of whitespace is the first, and the only one that reads blanks (R154). -/
theorem inkRule_of_mem_tail {r : LexRule} (hr : r ∈ lexRules.tail) : InkRule r := by
  revert r
  simp only [lexRules, List.tail_cons, List.forall_mem_cons]
  exact ⟨inkRule_word _ rfl, inkRule_word _ rfl, inkRule_word _ rfl, ⟨⟨_, rfl⟩, reads_regLen⟩,
    ⟨⟨_, rfl⟩, reads_hexLen⟩, ⟨⟨_, rfl⟩, reads_spanLen (isInk_of_class (by decide) (by decide))⟩,
    inkRule_word _ rfl, inkRule_word _ rfl, inkRule_word _ rfl, inkRule_word _ rfl,
    inkRule_word _ rfl, inkRule_word _ rfl, nofun⟩

theorem reads_of_mem_lexRules {r : LexRule} (hr : r ∈ lexRules) :
    (r.token = none ∧ Reads isBlank r.matchLen) ∨ InkRule r := by
  rcases List.mem_cons.mp hr with rfl | htail
  · exact .inl ⟨rfl, reads_spanLen fun _ h => h⟩
  · exact .inr (inkRule_of_mem_tail htail)

/-! ## The first rule that matches -/

theorem firstRule_eq_none {rules : List LexRule} {text : Text} (h : firstRule rules text = none) :
    ∀ r ∈ rules, r.matchLen text = 0 := by
  induction rules with
  | nil => nofun
  | cons r rest ih =>
    rw [firstRule] at h
    split at h
    case isTrue hr => exact List.forall_mem_cons.mpr ⟨hr, ih h⟩
    case isFalse => cases h

theorem firstRule_eq_some {rules : List LexRule} {text : Text} {n : Nat} {token : Option TokenType}
    (h : firstRule rules text = some (n, token)) : n ≠ 0 ∧ ∃ r ∈ rules, r.matchLen text = n ∧ r.token = token := by
  induction rules with
  | nil => cases h
  | cons r rest ih =>
    rw [firstRule] at h
    split at h
    case isTrue =>
      obtain ⟨hn, r', hr', hmatch⟩ := ih h
      exact ⟨hn, r', List.mem_cons_of_mem r hr', hmatch⟩
    case isFalse hr =>
      cases h
      exact ⟨hr, r, List.mem_cons_self, rfl, rfl⟩

/-- The token of a match holds what the match reads but the blanks, and is not empty. -/
theorem emitToken_of_firstRule {text : Text} {n : Nat} {token : Option TokenType} (htext : text ≠ [])
    (h : firstRule lexRules text = some (n, token)) :
    (emitToken token (text.take n)).flatMap Token.text = (text.take n).filter isInk
      ∧ ∀ t ∈ emitToken token (text.take n), t.text ≠ [] := by
  obtain ⟨hn, r, hr, rfl, rfl⟩ := firstRule_eq_some h
  rcases reads_of_mem_lexRules hr with ⟨htoken, hreads⟩ | ⟨⟨type, htoken⟩, hreads⟩
  · rw [htoken, List.filter_eq_nil_iff.mpr fun c hc => by simp [isInk, hreads text c hc]]
    exact ⟨rfl, nofun⟩
  · have htake : text.take (r.matchLen text) ≠ [] := by simp [htext, hn]
    rw [htoken, List.filter_eq_self.mpr (hreads text)]
    simp [emitToken, htake]

/-! ## The tokens of a text -/

theorem tokenizeFrom_covers {fuel position : Nat} {text : Text} {tokens : List Token}
    (h : tokenizeFrom fuel position text = .ok tokens) :
    tokens.flatMap Token.text = text.filter isInk ∧ ∀ t ∈ tokens, t.text ≠ [] := by
  induction fuel generalizing position text tokens with
  | zero =>
    match text with
    | [] => cases h; exact ⟨rfl, nofun⟩
    | _ :: _ => cases h
  | succ fuel ih =>
    match text with
    | [] => cases h; exact ⟨rfl, nofun⟩
    | c :: rest =>
      rw [tokenizeFrom] at h
      split at h
      case h_1 => cases h
      case h_2 n token hrule =>
        split at h
        case h_1 => cases h
        case h_2 more hmore =>
          cases h
          obtain ⟨hhead, hheadText⟩ := emitToken_of_firstRule (List.cons_ne_nil c rest) hrule
          obtain ⟨htail, htailText⟩ := ih hmore
          refine ⟨?_, List.forall_mem_append.mpr ⟨hheadText, htailText⟩⟩
          rw [List.flatMap_append, hhead, htail, ← List.filter_append, List.take_append_drop]

/-- An error of the tokenizer stands at an offset where no rule matches. -/
theorem tokenizeFrom_error {fuel position p : Nat} {text : Text} (hfuel : text.length ≤ fuel)
    (h : tokenizeFrom fuel position text = .error p) :
    ∃ k, p = position + k ∧ k < text.length ∧ ∀ r ∈ lexRules, r.matchLen (text.drop k) = 0 := by
  induction fuel generalizing position text with
  | zero =>
    match text with
    | [] => cases h
    | _ :: _ => cases hfuel
  | succ fuel ih =>
    match text with
    | [] => cases h
    | c :: rest =>
      rw [tokenizeFrom] at h
      split at h
      case h_1 hrule =>
        cases h
        exact ⟨0, rfl, Nat.zero_lt_succ _, firstRule_eq_none hrule⟩
      case h_2 n token hrule =>
        split at h
        case h_1 hmore =>
          cases h
          have hn := (firstRule_eq_some hrule).1
          obtain ⟨k, hp, hk, hnone⟩ := ih (by rw [List.length_drop]; omega) hmore
          rw [List.length_drop] at hk
          exact ⟨n + k, by omega, by omega, by rwa [← List.drop_drop]⟩
        case h_2 => cases h

/-- Settles O53: a rule reads blanks and gives no token, or reads no blank and gives the token of what it reads; the
tokenizer stops where no rule reads anything. -/
theorem tokenizerCoversTheText : Obligations.TokenizerCoversTheText := by
  refine ⟨fun text tokens h => ?_, fun text p h => ?_⟩
  · have hink : (fun c => decide (c ≠ ' ' ∧ c ≠ '\t')) = isInk := by
      funext c
      rw [isInk, Bool.eq_iff_iff]
      simp [isBlank]
    rw [hink]
    exact tokenizeFrom_covers h
  · obtain ⟨k, hp, hk, hnone⟩ := tokenizeFrom_error le_rfl h
    rw [Nat.zero_add] at hp
    exact hp ▸ ⟨hk, hnone⟩

/-! ## Example expressions -/

/-- The result of an expression from its evaluation (R150). -/
def resultOf : Evaluation → List PortCall × ExprResult
  | (calls, .ok v) => (calls, .ok v)
  | (calls, .error r) => (calls, .fatal r)

theorem resultOf_fst (e : Evaluation) : (resultOf e).1 = e.1 := by
  obtain ⟨calls, r | v⟩ := e <;> rfl

theorem resultOf_snd_of_ok {e : Evaluation} {v : Word} (h : e.2 = .ok v) : (resultOf e).2 = .ok v := by
  obtain ⟨calls, _⟩ := e
  cases h
  rfl

section
variable {s : State} {text : Text} {tokens : List Token} (hmax : s.cfg.maxTokens = none)
  (h : tokenize text = .ok tokens)
include hmax h

theorem exprValue_of_tokenize : exprValue s text = resultOf (evalRange s tokens.length (retag tokens)) := by
  simp only [exprValue, h, hmax, exceeds, Bool.false_eq_true, if_false]
  rfl

theorem exprValue_snd_of_tokenize {r : ExprResult}
    (hresult : (resultOf (evalRange s tokens.length (retag tokens))).2 = r) : (exprValue s text).2 = r := by
  rw [exprValue_of_tokenize hmax h, hresult]

end

/-- R162: a dereference of a single token makes the one read at its value. -/
theorem evalRange_deref {s : State} {t : Token} {a : Word} (h : singleToken s t = .ok a) (text : Text) (fuel : Nat) :
    evalRange s (fuel + 1) [{ type := .deref, text := text }, t] = ([.read a .four],
      if s.admitsAccess a .four = true then .ok (Memory.read s.mem a .four) else .error .memFault) := by
  obtain ⟨hl, hr, hrecord⟩ := flat_of_operand (type_of_singleToken h)
  have hscan : [{ type := .deref, text := text }, t].zipIdx.reverse = [(t, 1), ({ type := .deref, text := text }, 0)] :=
    rfl
  have hsplit : splitPoint [{ type := .deref, text := text }, t] = .ok none := by
    rw [splitPoint, hscan, scanSplit_cons_of_flat hl hr, hrecord]
    rfl
  have hwrapped : wrapped [{ type := .deref, text := text }, t] = none := wrapped_of_ne_lparen (by simp) [t]
  have hoperand : evalRange s fuel [t] = ([], .ok a) := by simp only [evalRange, h]
  rw [evalRange]
  simp only [hwrapped, hsplit, hoperand, evalDeref, State.memRead, List.nil_append]
  by_cases hadmit : s.admitsAccess a .four = true
  · simp only [if_pos hadmit]
  · simp only [if_neg hadmit]

section
variable (s : State)

/-- R160, R165: a division and a multiplication are taken from the left. -/
theorem evalRange_ten_div_three_mul_three :
    (evalRange s 5 [⟨.dec, ['1', '0']⟩, ⟨.slash, ['/']⟩, ⟨.dec, ['3']⟩, ⟨.star, ['*']⟩, ⟨.dec, ['3']⟩]).2
      = .ok 9#32 := by
  refine ((operatorsAssociateToTheLeft s ⟨.dec, ['1', '0']⟩ ⟨.dec, ['3']⟩ ⟨.dec, ['3']⟩ ⟨.slash, ['/']⟩ ⟨.star, ['*']⟩
    10#32 3#32 3#32 3 3 rfl rfl rfl rfl rfl).1 le_rfl).trans ?_
  cases s.cfg.exprDivSigned <;> rfl

/-- R156, R162: a dereference binds tighter than the sum it stands in. -/
theorem evalRange_deref_sp_add_four (h : s.admitsAccess (s.readReg 2#5) .four = true) :
    evalRange s 4 [⟨.deref, ['*']⟩, ⟨.reg, ['$', 's', 'p']⟩, ⟨.plus, ['+']⟩, ⟨.dec, ['4']⟩]
      = ([.read (s.readReg 2#5) .four], .ok (Memory.read s.mem (s.readReg 2#5) .four + 4#32)) := by
  have hderef := evalRange_deref (s := s) (t := ⟨.reg, ['$', 's', 'p']⟩) rfl ['*'] 2
  have hsum : evalRange s 4 [⟨.deref, ['*']⟩, ⟨.reg, ['$', 's', 'p']⟩, ⟨.plus, ['+']⟩, ⟨.dec, ['4']⟩]
      = evalBinary s.cfg.exprDivSigned .plus (evalRange s 3 [⟨.deref, ['*']⟩, ⟨.reg, ['$', 's', 'p']⟩])
          ([], .ok 4#32) := rfl
  rw [hsum, hderef, if_pos h]
  rfl

/-- R161: the right side of a sum is evaluated where the left one is fatal, and its read is made. -/
theorem evalRange_div_zero_add_deref :
    evalRange s 6 [⟨.dec, ['1']⟩, ⟨.slash, ['/']⟩, ⟨.dec, ['0']⟩, ⟨.plus, ['+']⟩, ⟨.deref, ['*']⟩, ⟨.dec, ['8']⟩]
      = ([.read 8#32 .four], binaryResult s.cfg.exprDivSigned .plus (.error .exprDivZero)
          (if s.admitsAccess 8#32 .four = true then .ok (Memory.read s.mem 8#32 .four) else .error .memFault)) := by
  have hderef := evalRange_deref (s := s) (t := ⟨.dec, ['8']⟩) (a := 8#32) rfl ['*'] 4
  have hsum : evalRange s 6
        [⟨.dec, ['1']⟩, ⟨.slash, ['/']⟩, ⟨.dec, ['0']⟩, ⟨.plus, ['+']⟩, ⟨.deref, ['*']⟩, ⟨.dec, ['8']⟩]
      = evalBinary s.cfg.exprDivSigned .plus ([], .error .exprDivZero)
          (evalRange s 5 [⟨.deref, ['*']⟩, ⟨.dec, ['8']⟩]) := rfl
  rw [hsum, hderef]
  rfl

end

/-- Settles O57: each text has the tokens that the lexical rules give, and each token list the evaluation of its cases;
the reads of memory are those of `evalRange_deref`. -/
theorem expressionExamples : Obligations.ExpressionExamples := by
  refine ⟨fun s t a h => ?deref, fun s hmax => ⟨?_, ?_, ?divMul, ?_, ?_, ?_, ?_, ?_, ?_, ?_, ?_, ?_, ?_, ?_, ?_, ?_, ?_,
    rfl, rfl, ?derefEight, fun h => ?derefSp, ?divAddPort, fun h => ?divAdd, ?divAddBoth, ?_⟩⟩
  case deref =>
    rw [evalRange_deref h ['*'] 1, Memory.read_four_eq_ofNat]
    congr 4
    omega
  case divMul =>
    refine exprValue_snd_of_tokenize hmax rfl ?_
    exact resultOf_snd_of_ok (evalRange_ten_div_three_mul_three s)
  case derefEight =>
    have hderef := evalRange_deref (s := s) (t := ⟨.dec, ['8']⟩) (a := 8#32) rfl ['*'] 1
    rw [exprValue_of_tokenize hmax rfl]
    refine (congrArg resultOf hderef).trans ?_
    by_cases h : s.admitsAccess 8#32 .four = true
    · rw [if_pos h, if_pos h]
      rfl
    · rw [if_neg h, if_neg h]
      rfl
  case derefSp =>
    refine exprValue_snd_of_tokenize hmax rfl ?_
    exact congrArg (fun e => (resultOf e).2) (evalRange_deref_sp_add_four s h)
  case divAddPort =>
    rw [exprValue_of_tokenize hmax rfl, resultOf_fst]
    exact congrArg Prod.fst (evalRange_div_zero_add_deref s)
  case divAdd =>
    have hsum := evalRange_div_zero_add_deref s
    rw [if_pos h] at hsum
    refine exprValue_snd_of_tokenize hmax rfl ?_
    exact congrArg (fun e => (resultOf e).2) hsum
  case divAddBoth =>
    have hboth : (exprValue s "1/0+()".toList).2
        = .fatal (if Config.leftReasonWins .exprDivZero .emptyRange then .exprDivZero else .emptyRange) :=
      exprValue_snd_of_tokenize hmax rfl rfl
    rw [hboth]
    split
    · exact .inl rfl
    · exact .inr rfl
  all_goals exact exprValue_snd_of_tokenize hmax rfl rfl

end Sys2Proof.Machine
end
